-- ==== Sys2Proof/Word.lean ====
section
/-! DEFINITION. The plainest types of the model: the byte, the two ports, the two pedals, the two halves of the
keyboard, and a record that holds one value for each of two.  Numbers that the manual treats as whole figures
(positions, rates, counts) are `Nat` or `Int`; bit vectors hold what the manual treats as bits (bytes of memory and
frames, the track image, the attention sets, the CRC registers). -/

namespace Sys2Proof

/-- One byte of record memory, of a frame or of the settings image. -/
abbrev Byte := BitVec 8

/-- The two request ports: Port S serves the roll scanner module, Port C the console processor (chapter 10). -/
inductive Port where
  | s
  | c
  deriving DecidableEq, Repr

/-- The other port. -/
def Port.other : Port → Port
  | .s => .c
  | .c => .s

/-- The two pedals (chapter 7): DAMPER follows track 5, SHIFT follows track 94. -/
inductive Pedal where
  | damper
  | shift
  deriving DecidableEq, Repr

/-- The two halves of the keyboard, each shaded by its own expression tracks (chapter 4). -/
inductive Half where
  | bass
  | treble
  deriving DecidableEq, Repr

/-- One value for each port. -/
structure PerPort (α : Type) where
  s : α
  c : α
  deriving DecidableEq, Repr

/-- One value for each pedal. -/
structure PerPedal (α : Type) where
  damper : α
  shift : α
  deriving DecidableEq, Repr

/-- One value for each half of the keyboard. -/
structure PerHalf (α : Type) where
  bass : α
  treble : α
  deriving DecidableEq, Repr

def PerPort.get {α : Type} (v : PerPort α) : Port → α
  | .s => v.s
  | .c => v.c

def PerPort.modify {α : Type} (v : PerPort α) (p : Port) (f : α → α) : PerPort α :=
  match p with
  | .s => { v with s := f v.s }
  | .c => { v with c := f v.c }

def PerPort.map {α β : Type} (f : α → β) (v : PerPort α) : PerPort β := ⟨f v.s, f v.c⟩

def PerPedal.get {α : Type} (v : PerPedal α) : Pedal → α
  | .damper => v.damper
  | .shift => v.shift

def PerPedal.modify {α : Type} (v : PerPedal α) (p : Pedal) (f : α → α) : PerPedal α :=
  match p with
  | .damper => { v with damper := f v.damper }
  | .shift => { v with shift := f v.shift }

def PerPedal.map {α β : Type} (f : α → β) (v : PerPedal α) : PerPedal β := ⟨f v.damper, f v.shift⟩

def PerHalf.get {α : Type} (v : PerHalf α) : Half → α
  | .bass => v.bass
  | .treble => v.treble

end Sys2Proof
end

