-- ==== Sys2Proof/Config.lean ====
section
/-! DEFINITION. What the manual leaves open and the model does not choose: the free values.  Each is an opaque constant
without a body, so no proof can lean on a value of it. -/

namespace Sys2Proof.Config

/-- FREE VALUE (assumption log 6).  R166: the settings memory "then holds what the store had written before it
stopped".  How many bytes of the copy a store had written when SOFT RESET or pin reset abandoned its writing phase is
set by the settings line, which the manual does not time.  Applied to the count of free values drawn so far; the step
reads it modulo the number of prefixes of the copy. -/
opaque storeProgress : Nat → Nat

end Sys2Proof.Config
end

