-- ==== Sys2Proof/Syntax.lean ====
section
/-! DEFINITION. The commands of the Ansoret 7288: one constructor per row of spec/opcode_table.json.  A request carries
the port it came in at and its payload fields at their widths on the wire (R185); an event of the part itself or of
its links carries what the outside world contributes to it (assumption log 5). -/

namespace Sys2Proof

/-- The commands.  The rows the table calls requests are those with a `Port` operand, `fetch` and `frameFault` among
them; the others are events. -/
inductive Instr where
  /-- PIN_RESET (R153): assertion and release of the reset pin. -/
  | pinReset
  /-- SETTINGS_LOAD_COMPLETE (R161): the settings load ends.  `complete`: every transfer on the settings line
  completed.  `noise`: the bytes the line delivered other than as the settings memory holds them, (address, byte). -/
  | settingsLoadComplete (complete : Bool) (noise : List Host.Cell)
  /-- STORE_WRITE_DONE (R164): the writing phase of a store ends.  `failedAt`: none when every transfer completed,
  `some k` when a transfer failed after k bytes were written. -/
  | storeWriteDone (failedAt : Option Nat)
  /-- STORE_VERIFY_DONE (R164): the read-back of a store ends; operands as for the settings load. -/
  | storeVerifyDone (complete : Bool) (noise : List Host.Cell)
  /-- FETCH (R169): a fetch transfer that clocks `n` response bytes out. -/
  | fetch (p : Port) (n : Nat)
  /-- FRAME_FAULT (R168): a transfer whose bytes fail the frame test, name no request or have a shape the named
  request does not take; `bytes` are the bytes clocked in. -/
  | frameFault (p : Port) (bytes : List Byte)
  /-- READ (R171). -/
  | read (p : Port) (addr : BitVec 16) (count : Byte)
  /-- READ ON (R171). -/
  | readOn (p : Port) (count : Byte)
  /-- WRITE (R172). -/
  | write (p : Port) (addr : BitVec 16) (data : List Byte)
  /-- READ STATUS (R174). -/
  | readStatus (p : Port)
  /-- CLEAR ATTENTION (R175). -/
  | clearAttention (p : Port) (sources : BitVec 16)
  /-- SET ATTENTION MASK (R176). -/
  | setAttentionMask (p : Port) (sources : BitVec 16) (drive : Byte)
  /-- CAPTURE (R177); bit 0 of `flag` is clear-worst. -/
  | capture (p : Port) (flag : Byte)
  /-- SOFT RESET (R178). -/
  | softReset (p : Port)
  /-- ATTACH RING (R25). -/
  | attachRing (p : Port) (base : BitVec 16) (q : Byte) (policy : Byte)
  /-- INTAKE RESUME (R33). -/
  | intakeResume (p : Port)
  /-- LOAD (R4). -/
  | load (p : Port)
  /-- PLAY (R7). -/
  | play (p : Port)
  /-- PAUSE (R9). -/
  | pause (p : Port)
  /-- STOP (R10). -/
  | stop (p : Port)
  /-- TEMPO (R11), a per-mille figure. -/
  | tempo (p : Port) (perMille : BitVec 16)
  /-- STEP MODE ON (R15). -/
  | stepModeOn (p : Port)
  /-- STEP MODE OFF (R15). -/
  | stepModeOff (p : Port)
  /-- STEP (R16). -/
  | step (p : Port) (count : Byte)
  /-- SEEK (R145); bit 0 of `autoPlay` is the auto-play request flag. -/
  | seek (p : Port) (target : BitVec 32) (autoPlay : Byte)
  /-- TRIM (R72): gain unsigned, balance signed. -/
  | trim (p : Port) (gain : BitVec 16) (balance : BitVec 16)
  /-- TRANSPOSE (R86), signed. -/
  | transpose (p : Port) (semitones : Byte)
  /-- PEDAL OVERRIDE (R134). -/
  | pedalOverride (p : Port) (pedal : Byte) (mode : Byte)
  /-- RESTART CHAIN (R125). -/
  | restartChain (p : Port) (chain : Byte)
  /-- FRAME CRC (R180). -/
  | frameCrc (p : Port) (chain : Byte) (count : Byte)
  /-- TEST PULSE (R182). -/
  | testPulse (p : Port) (output : Byte) (pw10 : BitVec 16)
  /-- APPLY TABLES (R158). -/
  | applyTables (p : Port)
  /-- STORE SETTINGS (R164). -/
  | storeSettings (p : Port)
  /-- RELOAD SETTINGS (R163). -/
  | reloadSettings (p : Port)
  /-- CONSUMPTION_EVENT (R29). -/
  | consumptionEvent
  /-- STARVATION (R13). -/
  | starvation
  /-- END_OF_ROLL (R18). -/
  | endOfRoll
  /-- CUE_FIRE (R142). -/
  | cueFire
  /-- HAND_ON (R96). -/
  | handOn
  /-- FRAME_BUILD (R109). -/
  | frameBuild
  /-- ECHO_RECEIVED (R122): the two bytes of a chain's echo; `framed`: both carried their stop bit (R191). -/
  | echoReceived (chain : Fin 4) (seq : Byte) (check : Byte) (framed : Bool)
  /-- GAP_COUNTDOWN_EXPIRY (R95) on one key. -/
  | gapCountdownExpiry (key : Fin 88)
  /-- SLOT_FREE (R112) for the slots held for one output. -/
  | slotFree (output : Fin 90)
  /-- PULSE_END (R115) on one key. -/
  | pulseEnd (key : Fin 88)
  /-- KICK_END (R133) of one pedal. -/
  | kickEnd (pd : Pedal)
  /-- EASE_STEP (R133) of one pedal. -/
  | easeStep (pd : Pedal)
  /-- FRAME_CRC_DONE (R181). -/
  | frameCrcDone
  deriving DecidableEq, Repr

end Sys2Proof
end

