-- ==== Sys2Proof/Decode.lean ====
section
/-! DEFINITION. `decodeTableWord` (the opcode table gives no row any bits), and the wire format of the request frames:
the frame of each request (R185) and the judging of a transfer by its bytes (R168, tests 1, 2 and 4). -/

namespace Sys2Proof

/-- The command that a word spells by the opcode table's bits.  The table gives bits to none of its rows (the manual's
requests are byte frames, not words), so no word spells a command. -/
def decodeTableWord (_nbits _w : Nat) : Option Instr := none

/-- The check byte of R168 and R169: 0x3C exclusive-ORed with every byte given (R30, R121 and R191 use the same). -/
def checkByte (bytes : List Byte) : Byte := bytes.foldl (· ^^^ ·) 0x3C#8

/-- A 16-bit payload field, little-endian (section "Numbers and layout"). -/
def bytes16 (v : BitVec 16) : List Byte := [v.extractLsb' 0 8, v.extractLsb' 8 8]

/-- A 32-bit payload field, little-endian. -/
def bytes32 (v : BitVec 32) : List Byte :=
  [v.extractLsb' 0 8, v.extractLsb' 8 8, v.extractLsb' 16 8, v.extractLsb' 24 8]

/-- A request frame (R168): code, length, payload and check byte. -/
def requestFrame (code : Byte) (payload : List Byte) : List Byte :=
  let body := code :: BitVec.ofNat 8 payload.length :: payload
  body ++ [checkByte body]

/-- The code and payload of each request (R185); none for a row that is no request. -/
def requestParts : Instr → Option (Port × Byte × List Byte)
  | .read p addr count => some (p, 0x01#8, bytes16 addr ++ [count])
  | .readOn p count => some (p, 0x02#8, [count])
  | .write p addr data => some (p, 0x03#8, bytes16 addr ++ data)
  | .readStatus p => some (p, 0x04#8, [])
  | .clearAttention p sources => some (p, 0x05#8, bytes16 sources)
  | .setAttentionMask p sources drive => some (p, 0x06#8, bytes16 sources ++ [drive])
  | .capture p flag => some (p, 0x07#8, [flag])
  | .softReset p => some (p, 0x08#8, [])
  | .attachRing p base q policy => some (p, 0x10#8, bytes16 base ++ [q, policy])
  | .intakeResume p => some (p, 0x11#8, [])
  | .load p => some (p, 0x20#8, [])
  | .play p => some (p, 0x21#8, [])
  | .pause p => some (p, 0x22#8, [])
  | .stop p => some (p, 0x23#8, [])
  | .tempo p perMille => some (p, 0x24#8, bytes16 perMille)
  | .stepModeOn p => some (p, 0x25#8, [])
  | .stepModeOff p => some (p, 0x26#8, [])
  | .step p count => some (p, 0x27#8, [count])
  | .seek p target autoPlay => some (p, 0x28#8, bytes32 target ++ [autoPlay])
  | .trim p gain balance => some (p, 0x30#8, bytes16 gain ++ bytes16 balance)
  | .transpose p semitones => some (p, 0x31#8, [semitones])
  | .pedalOverride p pedal mode => some (p, 0x32#8, [pedal, mode])
  | .restartChain p chain => some (p, 0x40#8, [chain])
  | .frameCrc p chain count => some (p, 0x41#8, [chain, count])
  | .testPulse p output pw10 => some (p, 0x42#8, [output] ++ bytes16 pw10)
  | .applyTables p => some (p, 0x50#8, [])
  | .storeSettings p => some (p, 0x51#8, [])
  | .reloadSettings p => some (p, 0x52#8, [])
  | .pinReset | .settingsLoadComplete _ _ | .storeWriteDone _ | .storeVerifyDone _ _ | .fetch _ _ | .frameFault _ _
  | .consumptionEvent | .starvation | .endOfRoll | .cueFire | .handOn | .frameBuild | .echoReceived _ _ _ _
  | .gapCountdownExpiry _ | .slotFree _ | .pulseEnd _ | .kickEnd _ | .easeStep _ | .frameCrcDone => none

/-- The bytes a host clocks in to send a request; none for a row that is no request. -/
def encodeRequest (i : Instr) : List Byte :=
  match requestParts i with
  | some (_, code, payload) => requestFrame code payload
  | none => []

/-- What a transfer is, judged by its bytes alone (R168).  Test 3, the settings load, needs the state and is the
port's; `badShape` names whether the code is READ STATUS, the one request that test 3 passes. -/
inductive Transfer where
  | nothing
  | fetch (count : Nat)
  | frameFault
  | unknownRequest
  | badShape (isReadStatus : Bool)
  | request (i : Instr)
  deriving DecidableEq, Repr

/-- Tests 2 and 4 of R168 on a frame that passed test 1: `unknownRequest` when the code names no request, `badShape`
when the payload has a length the request does not take or a selector byte names no pedal, mode or line drive. -/
def judgeRequest (p : Port) (code : Byte) (payload : List Byte) : Transfer :=
  match code.toNat, payload with
  | 0x01, [a0, a1, n] => .request (.read p (a1 ++ a0) n)
  | 0x02, [n] => .request (.readOn p n)
  | 0x03, a0 :: a1 :: d0 :: data => if data.length < 64 then .request (.write p (a1 ++ a0) (d0 :: data)) else .badShape false
  | 0x04, [] => .request (.readStatus p)
  | 0x05, [b0, b1] => .request (.clearAttention p (b1 ++ b0))
  | 0x06, [b0, b1, d] => if d.toNat ≤ 1 then .request (.setAttentionMask p (b1 ++ b0) d) else .badShape false
  | 0x07, [f] => .request (.capture p f)
  | 0x08, [] => .request (.softReset p)
  | 0x10, [b0, b1, q, h] => .request (.attachRing p (b1 ++ b0) q h)
  | 0x11, [] => .request (.intakeResume p)
  | 0x20, [] => .request (.load p)
  | 0x21, [] => .request (.play p)
  | 0x22, [] => .request (.pause p)
  | 0x23, [] => .request (.stop p)
  | 0x24, [b0, b1] => .request (.tempo p (b1 ++ b0))
  | 0x25, [] => .request (.stepModeOn p)
  | 0x26, [] => .request (.stepModeOff p)
  | 0x27, [n] => .request (.step p n)
  | 0x28, [b0, b1, b2, b3, f] => .request (.seek p (b3 ++ b2 ++ b1 ++ b0) f)
  | 0x30, [g0, g1, b0, b1] => .request (.trim p (g1 ++ g0) (b1 ++ b0))
  | 0x31, [t] => .request (.transpose p t)
  | 0x32, [d, m] => if d.toNat ≤ 1 ∧ m.toNat ≤ 2 then .request (.pedalOverride p d m) else .badShape false
  | 0x40, [c] => .request (.restartChain p c)
  | 0x41, [c, n] => .request (.frameCrc p c n)
  | 0x42, [o, w0, w1] => .request (.testPulse p o (w1 ++ w0))
  | 0x50, [] => .request (.applyTables p)
  | 0x51, [] => .request (.storeSettings p)
  | 0x52, [] => .request (.reloadSettings p)
  | c, _ =>
    if c ∈ [0x01, 0x02, 0x03, 0x04, 0x05, 0x06, 0x07, 0x08, 0x10, 0x11, 0x20, 0x21, 0x22, 0x23, 0x24, 0x25, 0x26, 0x27,
      0x28, 0x30, 0x31, 0x32, 0x40, 0x41, 0x42, 0x50, 0x51, 0x52] then .badShape (c == 0x04)
    else .unknownRequest

/-- Test 1 of R168 on the bytes of a request transfer: three bytes or more, a length byte of at most 70, a byte count
of the length plus three, and the right check byte. -/
def frameOk (bytes : List Byte) : Bool :=
  match bytes with
  | _ :: len :: rest =>
    len.toNat ≤ 70 && rest.length == len.toNat + 1 && bytes.getLast? == some (checkByte bytes.dropLast)
  | _ => false

/-- A transfer judged when select is released.  The fetch byte is 0xF0 (R185); a transfer of no byte at all is
ignored (R168). -/
def judgeTransfer (p : Port) (bytes : List Byte) : Transfer :=
  match bytes with
  | [] => .nothing
  | code :: rest =>
    if code = 0xF0#8 then .fetch rest.length
    else if frameOk bytes then judgeRequest p code (rest.tail.dropLast)
    else .frameFault

end Sys2Proof
end

