-- ==== Sys2Proof/Machine/Base.lean ====
section
/-! DEFINITION. Small helpers: tables of a fixed number of records read and written by number, clamps, saturating
counters, rounding up. -/

namespace Sys2Proof.Machine

/-- Record `i` of a table, `d` past its end. -/
def vget {α : Type} {n : Nat} (v : Vector α n) (i : Nat) (d : α) : α := v.toList.getD i d

/-- The table with record `i` replaced; no change past its end. -/
def vset {α : Type} {n : Nat} (v : Vector α n) (i : Nat) (x : α) : Vector α n :=
  ⟨(v.toList.set i x).toArray, by simp⟩

/-- The table with `f` applied to record `i`; no change past its end. -/
def vmodify {α : Type} {n : Nat} (v : Vector α n) (i : Nat) (f : α → α) : Vector α n :=
  ⟨(v.toList.modify i f).toArray, by simp⟩

/-- The table with `f` applied to every record. -/
def vmap {α β : Type} {n : Nat} (f : α → β) (v : Vector α n) : Vector β n :=
  ⟨(v.toList.map f).toArray, by simp⟩

/-- The table with `f` applied to every record and its number. -/
def vmapIdx {α β : Type} {n : Nat} (f : Nat → α → β) (v : Vector α n) : Vector β n :=
  ⟨(v.toList.mapIdx f).toArray, by simp⟩

/-- A table made from the record numbers. -/
def vtab {α : Type} (n : Nat) (f : Nat → α) : Vector α n :=
  ⟨((List.range n).map f).toArray, by simp⟩

def clampNat (lo hi x : Nat) : Nat := max lo (min hi x)

def clampInt (lo hi x : Int) : Int := max lo (min hi x)

/-- A 16-bit counter one higher, stopping at 65 535 (R23, R43, R105). -/
def bump16 (n : Nat) : Nat := min (n + 1) 65535

/-- A 16-bit counter higher by `k`, stopping at 65 535. -/
def add16 (n k : Nat) : Nat := min (n + k) 65535

/-- A 32-bit counter one higher, stopping at 4 294 967 295 (R23). -/
def bump32 (n : Nat) : Nat := min (n + 1) 4294967295

/-- Division rounded up. -/
def ceilDiv (a b : Nat) : Nat := (a + b - 1) / b

end Sys2Proof.Machine
end

