-- ==== Sys2Proof/Machine/Memory.lean ====
section
/-! DEFINITION. Byte memory: a list of (address, byte) pairs in one canonical form, addresses strictly rising and no
entry equal to what an unlisted address reads as.  The record memory (8192 bytes, R167) and the external settings
memory (8 KiB, R160) are held so; they differ in what an unlisted address reads as. -/

namespace Sys2Proof.Machine

abbrev Mem := List Host.Cell

/-- DESIGN CHOICE (assumption log 1): what a byte of record memory that nothing has written reads as.  The manual
gives the 8192 bytes no reset value. -/
def recordFill : Byte := 0x00#8

/-- DESIGN CHOICE (assumption log 2): what a byte of the settings memory that no store has written reads as; the
manual's own example of a memory without an image "reads all 0xFF" (R161). -/
def settingsFill : Byte := 0xFF#8

/-- Record memory has the addresses 0x0000–0x1FFF. -/
def recordSize : Nat := 0x2000

/-- The byte at address `a`; `d` where nothing is listed. -/
def Mem.read (d : Byte) : Mem → Nat → Byte
  | [], _ => d
  | (x, v) :: t, a => if x = a then v else Mem.read d t a

/-- The `n` bytes from address `a` upward. -/
def Mem.readBlock (d : Byte) (m : Mem) (a : Nat) : Nat → List Byte
  | 0 => []
  | n + 1 => Mem.read d m a :: Mem.readBlock d m (a + 1) n

/-- The cells that list `bs` at address `a`, none equal to `d`. -/
def Mem.cells (d : Byte) (a : Nat) : List Byte → Mem
  | [] => []
  | b :: bs => if b = d then Mem.cells d (a + 1) bs else (a, b) :: Mem.cells d (a + 1) bs

/-- `bs` written from address `a` upward, in one event. -/
def Mem.writeBlock (d : Byte) (m : Mem) (a : Nat) (bs : List Byte) : Mem :=
  m.filter (fun c => c.1 < a) ++ Mem.cells d a bs ++ m.filter (fun c => a + bs.length ≤ c.1)

/-- The canonical form: addresses strictly rising, no listed byte equal to `d`. -/
abbrev Mem.wf (d : Byte) (m : Mem) : Prop :=
  m.Pairwise (fun x y => x.1 < y.1) ∧ ∀ c ∈ m, c.2 ≠ d

/-- Every listed address lies below `n`. -/
abbrev Mem.below (n : Nat) (m : Mem) : Prop := ∀ c ∈ m, c.1 < n

end Sys2Proof.Machine
end

