-- ==== Sys2Proof/Machine/Types.lean ====
section
/-! DEFINITION. The records the blocks hold, each field under the manual's name.  The rule that lists a record stands
in its docstring.  Fields marked MODEL'S OWN are not named by the manual as state: they hold what its rules imply. -/

namespace Sys2Proof.Machine

/-! ### Tables (chapters 9 and 12) -/

/-- A profile entry (R156, R189). -/
structure Profile where
  valid : Nat
  splitKey : Nat
  signature : BitVec 16
  vNom16 : Nat
  readAhead : Nat
  prime : Nat
  onRun : Nat
  offRun : Nat
  stepStable : Nat
  steps : Vector Nat 8
  wMax : Nat
  upSlow : Nat
  upFast : Nat
  downSlow : Nat
  downFast : Nat
  deriving DecidableEq, Repr

/-- A voicing entry (R157, R189). -/
structure Voicing where
  e0 : Nat
  e1 : Nat
  tSoft : Nat
  tLoud : Nat
  holdDuty : Nat
  mute : Bool
  dampLead : Nat
  rgap : Nat
  deriving DecidableEq, Repr

/-- The five profile figures a lift takes from the pedal entry at its grant (R127, R128). -/
structure LiftFigures where
  kickDuty : Nat
  kickTime : Nat
  easeStep : Nat
  easeInterval : Nat
  holdDuty : Nat
  deriving DecidableEq, Repr

/-- A pedal entry (R128, R189). -/
structure PedalEntry where
  figures : LiftFigures
  liftLead : Nat
  dropLead : Nat
  deriving DecidableEq, Repr

/-- The drive configuration (R114, R189). -/
structure DriveConfig where
  k : Nat
  cooling : Nat
  hWarn : Nat
  hLim : Nat
  deriving DecidableEq, Repr

/-- Cue actions (R138). -/
inductive CueAction where
  | none
  | notice
  | stop
  | loop
  deriving DecidableEq, Repr

/-- A cue entry as the staged table gives it, its counter field apart (R138, R139). -/
structure CueDef where
  line : Nat
  target : Nat
  action : CueAction
  once : Bool
  armed : Bool
  deriving DecidableEq, Repr

/-- Where the channel map puts an output (R119). -/
inductive Place where
  | unused
  | wired (chain : Nat) (channel : Nat)
  deriving DecidableEq, Repr

/-- The live tables but for the cue table, which the Cue Unit holds (R153, R154). -/
structure Tables where
  profiles : Vector Profile 8
  leaderMask : BitVec 104
  pedals : PerPedal PedalEntry
  drive : DriveConfig
  map : Vector Place 90
  voicing : Vector Voicing 88
  deriving DecidableEq, Repr

/-- Settings link states (R153). -/
inductive LinkState where
  | idle
  | loading
  | storing
  | verifying
  deriving DecidableEq, Repr

/-- Last store result (R153). -/
inductive StoreResult where
  | none
  | ok
  | verifyFailed
  deriving DecidableEq, Repr

/-- The Table Store (R153). -/
structure TableStore where
  live : Tables
  generation : Nat
  appliedProfile : Nat
  link : LinkState
  storeCopy : List Byte
  lastStore : StoreResult
  deriving DecidableEq, Repr

/-! ### Roll Clock and seek record (chapters 1 and 8) -/

/-- The ten roll states (section 1.2). -/
inductive RollState where
  | empty
  | leader
  | ready
  | playing
  | starved
  | paused
  | seeking
  | preroll
  | stepping
  | ended
  deriving DecidableEq, Repr

/-- Directive kinds (section 1.13). -/
inductive DirectiveKind where
  | stop
  | run
  | hold
  | seek
  deriving DecidableEq, Repr

/-- The transport directive record (section 1.13). -/
structure Directive where
  kind : DirectiveKind
  rate : Nat
  seekStart : Nat
  seq : Byte
  deriving DecidableEq, Repr

/-- The Roll Clock (R1).  Positions are line fractions, rates 1/16 line per second, `c` is in ppm. -/
structure RollClock where
  state : RollState
  p : Nat
  nIn : Nat
  lineHeld : Bool
  signatureTaken : Bool
  vNom16 : Nat
  readAhead : Nat
  tau : Nat
  vCmd16 : Nat
  c : Int
  endLine : Option Nat
  backedUp : Bool
  autoPlay : Bool
  directive : Directive
  starvations : Nat
  discontinuities : Nat
  deriving DecidableEq, Repr

/-- The seek record (R144). -/
structure SeekRecord where
  target : Nat
  start : Nat
  prime : Nat
  shorts : Nat
  deriving DecidableEq, Repr

/-- Time, MODEL'S OWN (assumption log 4): CLKIN periods since the last frame build, frame builds since pin reset, and
the part of a line fraction P has gained since it reached its present value, in 10⁻¹² of a fraction, with the rate
(the same unit per CLKIN period) taken when the present fraction began (R8). -/
structure Timing where
  phase : Nat
  build : Nat
  rate : Nat
  part : Nat
  deriving DecidableEq, Repr

/-! ### Intake Unit (chapter 2) -/

/-- Damage policies (R25). -/
inductive Policy where
  | hold
  | halt
  deriving DecidableEq, Repr

/-- Intake states (R23). -/
inductive IntakeState where
  | running
  | halted
  deriving DecidableEq, Repr

/-- The Intake Unit (R23). -/
structure Intake where
  attached : Bool
  base : Nat
  q : Nat
  policy : Policy
  index : Nat
  owned : Nat
  lastImage : BitVec 104
  state : IntakeState
  endStop : Bool
  linesConsumed : Nat
  gapsFilled : Nat
  damaged : Nat
  duplicates : Nat
  deriving DecidableEq, Repr

/-- Slot statuses (R24). -/
inductive SlotStatus where
  | consumed
  | gapFilled
  | damagedHeld
  | damagedHalted
  | duplicate
  | skipped
  | flushed
  | discontinuity
  deriving DecidableEq, Repr

/-- Where a line's image came from (R29). -/
inductive Origin where
  | scanned
  | filled
  | held
  deriving DecidableEq, Repr

/-- A line handed to the Reading Unit (R29). -/
structure Line where
  number : Nat
  image : BitVec 104
  origin : Origin
  deriving DecidableEq, Repr

/-! ### Reading Unit (chapter 3) -/

/-- A track filter with its run count and its candidate line (R44, R48): the onset candidate in OPENING, the close
candidate in CLOSING. -/
inductive Filter where
  | closed
  | opening (count : Nat) (onset : Nat)
  | opened
  | closing (count : Nat) (close : Nat)
  deriving DecidableEq, Repr

/-- What one sample makes of a filter (R48): an onset or a close with its line, a speck or a bridge. -/
inductive FilterEvent where
  | none
  | onset (line : Nat)
  | close (line : Nat)
  | speck
  | bridged
  deriving DecidableEq, Repr

/-- A step-code debouncer (R44, R53). -/
structure Debouncer where
  candidate : Option Nat
  count : Nat
  deriving DecidableEq, Repr

/-- An entry of the level history (R55). -/
structure LevelEntry where
  line : Nat
  levels : PerHalf Nat
  deriving DecidableEq, Repr

/-- The Reading Unit (R44). -/
structure Reading where
  filters : Vector Filter 100
  debouncers : PerHalf Debouncer
  history : List LevelEntry
  signature : BitVec 16
  signatureValid : Bool
  onRun : Nat
  offRun : Nat
  stepStable : Nat
  leaderMask : BitVec 104
  specks : Nat
  deriving DecidableEq, Repr

/-! ### Expression Unit (chapter 4) -/

/-- The Expression Unit (R65). -/
structure Expression where
  b : PerHalf Nat
  w256 : PerHalf Nat
  level : PerHalf Nat
  gain : Nat
  balance : Int
  splitKey : Nat
  steps : Vector Nat 8
  wMax : Nat
  upSlow : Nat
  upFast : Nat
  downSlow : Nat
  downFast : Nat
  deriving DecidableEq, Repr

/-! ### Scheduler (chapter 5) -/

/-- Sounding Table states (R85). -/
inductive TrackState where
  | silent
  | pending
  | sounding
  | releasing
  | interrupted
  deriving DecidableEq, Repr

/-- A Sounding Table record (R85).  The note in force and the open note are named by the creation sequence number of
their strikes. -/
structure TrackRec where
  state : TrackState
  releaseQueued : Bool
  key : Nat
  inForce : Option Nat
  openNote : Option Nat
  queued : Nat
  deriving DecidableEq, Repr

/-- Last issued kind of a key (R95). -/
inductive LastIssued where
  | none
  | strike
  | release
  deriving DecidableEq, Repr

/-- A key record (R88, R95).  `offDue`, MODEL'S OWN: the key's OFF is to be recorded at the next frame build as a
release issue with issue position none (R101, R103, R104). -/
structure KeyRec where
  owners : Nat
  last : LastIssued
  lastPos : Option Nat
  lastPw10 : Nat
  countdown : Nat
  offDue : Bool
  deriving DecidableEq, Repr

/-- What a STRIKE entry carries (R93).  `cap10` is the thermal cap of the voicing entry the strike was scheduled with
(R75, R118).  `offPending`, MODEL'S OWN: the entry is BLOCKED behind a pending OFF (R100).  `held`, MODEL'S OWN: the
drive periods it has waited in PAUSED since its due position was passed, or, caught, while P stood at or past its due
position (R102, R113, R150; assumption log 32). -/
structure StrikeBody where
  track : Nat
  key : Nat
  pw10 : Nat
  cap10 : Nat
  level : Nat
  caught : Bool
  restrike : Bool
  offPending : Bool
  held : Nat
  deriving DecidableEq, Repr

/-- What a RELEASE entry carries (R93); `paired` is the creation sequence number of its strike. -/
structure ReleaseBody where
  track : Nat
  key : Nat
  paired : Nat
  void : Bool
  deriving DecidableEq, Repr

/-- The four kinds of Timeline entry (R93). -/
inductive EntryBody where
  | strike (b : StrikeBody)
  | release (b : ReleaseBody)
  | lift (pd : Pedal)
  | drop (pd : Pedal)
  deriving DecidableEq, Repr

/-- Timeline entry states (R93); `released` is RELEASED-TO-ARBITER. -/
inductive EntryState where
  | blocked
  | waiting
  | released
  deriving DecidableEq, Repr

/-- A Timeline entry (R93). -/
structure Entry where
  body : EntryBody
  due : Nat
  releasePos : Nat
  seq : Nat
  state : EntryState
  deriving DecidableEq, Repr

/-- The Scheduler (R84).  The Timeline is held in creation order. -/
structure Scheduler where
  tracks : Vector TrackRec 88
  keys : Vector KeyRec 88
  timeline : List Entry
  nextSeq : Nat
  transposition : Int
  lateStrikes : Nat
  staleDrops : Nat
  restrikes : Nat
  deriving DecidableEq, Repr

/-! ### Drive Unit (chapters 6 and 11) -/

/-- What a busy strike slot is held by (R106), with its output. -/
inductive Holder where
  | strike (key : Nat)
  | suppressed (key : Nat)
  | kick (pd : Pedal)
  | test (key : Nat)
  deriving DecidableEq, Repr

/-- A busy strike slot (R106): its holder and the frame build at which it frees. -/
structure BusySlot where
  holder : Holder
  freesAt : Nat
  deriving DecidableEq, Repr

/-- Key channel states (R107). -/
inductive KeyState where
  | off
  | pulse
  | hold
  deriving DecidableEq, Repr

/-- The channel record of a key output (R107); `start` is the frame build of the pulse's first frame. -/
structure KeyChannel where
  state : KeyState
  heat : Nat
  pw10 : Nat
  start : Nat
  test : Bool
  deriving DecidableEq, Repr

/-- Chain states (R108). -/
inductive ChainState where
  | probing
  | online
  | faulted
  deriving DecidableEq, Repr

/-- Echo results (R108). -/
inductive EchoResult where
  | none
  | good
  | wrong
  deriving DecidableEq, Repr

/-- A chain link record (R108).  `wire`, MODEL'S OWN: the 50 bytes of the frame most recently sent on DTX (R191). -/
structure Chain where
  state : ChainState
  goodRun : Nat
  badRun : Nat
  seq : Byte
  lastSent : Option (Byte × Byte)
  echo : EchoResult
  wire : List Byte
  deriving DecidableEq, Repr

/-- The Drive Unit (R106 to R108).  The waiting set is not stored: it is read off the Timeline, the pedal records and
the test pulse record (R93, R106).  `builtMap`, MODEL'S OWN: the channel map of the last frame build, by which a build
sees that an output's place has changed (R120). -/
structure Drive where
  busy : List BusySlot
  thermalCaps : Nat
  suppressed : Nat
  channels : Vector KeyChannel 88
  pedalHeat : PerPedal Nat
  chains : Vector Chain 4
  builtMap : Vector Place 90
  deriving DecidableEq, Repr

/-- The frame check record (R179). -/
structure FrameCheck where
  chain : Nat
  left : Nat
  register : BitVec 16
  result : BitVec 16
  done : Bool
  deriving DecidableEq, Repr

/-- Test pulse phases (R179). -/
inductive TestPhase where
  | none
  | waiting
  | running
  deriving DecidableEq, Repr

/-- The test pulse record (R179).  `moved`, MODEL'S OWN: tables made live since the pulse was taken have moved its output
or mapped it UNUSED, so that the pulse ends at the next build (R184; assumption log 31). -/
structure TestPulse where
  phase : TestPhase
  output : Nat
  pw10 : Nat
  moved : Bool
  deriving DecidableEq, Repr

/-! ### Pedal Unit (chapter 7) -/

/-- Pedal channel states (R127). -/
inductive PedalState where
  | rest
  | waitingSlot
  | kick
  | ease
  | hold
  deriving DecidableEq, Repr

/-- Pedal roll states (R127). -/
inductive PedalRoll where
  | up
  | down
  deriving DecidableEq, Repr

/-- Overrides (R127). -/
inductive Override where
  | roll
  | on
  | off
  deriving DecidableEq, Repr

/-- A pedal record (R127).  `stepped`, MODEL'S OWN: the pedal's stage 3 of the coming frame build has been taken by
KICK_END or EASE_STEP (assumption log 10). -/
structure PedalRec where
  state : PedalState
  roll : PedalRoll
  override : Override
  ownRequest : Bool
  duty : Nat
  figures : LiftFigures
  countdown : Nat
  stepped : Bool
  deriving DecidableEq, Repr

/-! ### Cue Unit (chapter 8) -/

/-- A live cue entry (R138). -/
structure Cue where
  line : Nat
  target : Nat
  action : CueAction
  once : Bool
  appliedArmed : Bool
  armed : Bool
  hits : Nat
  deriving DecidableEq, Repr

/-- The Cue Unit (R138). -/
structure CueUnit where
  live : Vector Cue 32
  last : Option Nat
  deriving DecidableEq, Repr

/-! ### Ports (chapter 10) -/

/-- Statuses (R170). -/
inductive Status where
  | done
  | clamped
  | refusedState
  | refusedRange
  | refusedFence
  | refusedBusy
  | refusedTable
  | frameFault
  | unknownRequest
  deriving DecidableEq, Repr

/-- A response (R169), its length and check bytes apart. -/
structure Response where
  status : Status
  payload : List Byte
  deriving DecidableEq, Repr

/-- Line drives (R167). -/
inductive LineDrive where
  | openDrain
  | pushPull
  deriving DecidableEq, Repr

/-- Attention sources (R186); `ended` is END. -/
inductive Attention where
  | cue
  | ended
  | starved
  | discontinuity
  | damage
  | chain
  | thermal
  | settings
  | store
  | seek
  | directive
  deriving DecidableEq, Repr

/-- A port record (R167).  `sdo`, MODEL'S OWN: the bytes the port clocked out in the last transfer (R168, R169). -/
structure PortRec where
  assembler : List Byte
  response : Option Response
  window : Nat
  pending : BitVec 16
  mask : BitVec 16
  drive : LineDrive
  worst : Nat
  sdo : List Byte
  deriving DecidableEq, Repr

end Sys2Proof.Machine
end

