-- ==== Sys2Proof/Machine/Defaults.lean ====
section
/-! DEFINITION. The built-in default tables (R162) and the record of every block as pin reset leaves it. -/

namespace Sys2Proof.Machine

/-! ### Built-in tables (R162) -/

/-- Built-in profile 0 (R162). -/
def Profile.builtIn : Profile where
  valid := 1
  splitKey := 44
  signature := 0#16
  vNom16 := 7680
  readAhead := 512
  prime := 512
  onRun := 2
  offRun := 3
  stepStable := 3
  steps := #v[120, 200, 280, 360, 440, 520, 600, 680]
  wMax := 280
  upSlow := 200
  upFast := 1400
  downSlow := 300
  downFast := 1400

/-- Built-in profiles 1 to 7: valid 0, every field 0 (R162). -/
def Profile.blank : Profile where
  valid := 0
  splitKey := 0
  signature := 0#16
  vNom16 := 0
  readAhead := 0
  prime := 0
  onRun := 0
  offRun := 0
  stepStable := 0
  steps := #v[0, 0, 0, 0, 0, 0, 0, 0]
  wMax := 0
  upSlow := 0
  upFast := 0
  downSlow := 0
  downFast := 0

/-- The built-in voicing of every key (R162). -/
def Voicing.builtIn : Voicing where
  e0 := 600
  e1 := 3600
  tSoft := 900
  tLoud := 150
  holdDuty := 96
  mute := false
  dampLead := 300
  rgap := 400

/-- The profile figures of the built-in pedal entry (R162). -/
def LiftFigures.builtIn : LiftFigures where
  kickDuty := 255
  kickTime := 60
  easeStep := 8
  easeInterval := 5
  holdDuty := 110

/-- The built-in pedal entry (R128, R162). -/
def PedalEntry.builtIn : PedalEntry where
  figures := LiftFigures.builtIn
  liftLead := 800
  dropLead := 400

/-- The built-in drive configuration (R162). -/
def DriveConfig.builtIn : DriveConfig where
  k := 8
  cooling := 6
  hWarn := 2400
  hLim := 3200

/-- The default channel map (R119): key k at chain floor(k/24), channel k mod 24, DAMPER and SHIFT (outputs 88 and 89)
at chain 3, channels 16 and 17, which the same formula gives. -/
def defaultMap : Vector Place 90 := vtab 90 fun o => .wired (o / 24) (o % 24)

/-- The mask that selects all 100 tracks (R162): bytes 0..11 0xFF, byte 12 0x0F. -/
def allTracks : BitVec 104 := BitVec.ofNat 104 (2 ^ 100 - 1)

/-- The built-in tables, the cue table apart (R162). -/
def Tables.builtIn : Tables where
  profiles := vtab 8 fun i => if i = 0 then Profile.builtIn else Profile.blank
  leaderMask := allTracks
  pedals := ⟨PedalEntry.builtIn, PedalEntry.builtIn⟩
  drive := DriveConfig.builtIn
  map := defaultMap
  voicing := vtab 88 fun _ => Voicing.builtIn

/-- An empty cue entry (R138, R162). -/
def CueDef.empty : CueDef where
  line := 0
  target := 0
  action := .none
  once := false
  armed := false

/-- The built-in cue table: every entry empty (R138, R162). -/
def builtInCues : Vector CueDef 32 := vtab 32 fun _ => CueDef.empty

/-! ### Records after pin reset -/

/-- R1. -/
def RollClock.reset : RollClock where
  state := .empty
  p := 0
  nIn := 0
  lineHeld := false
  signatureTaken := false
  vNom16 := 7680
  readAhead := 512
  tau := 1000
  vCmd16 := 7680
  c := 0
  endLine := none
  backedUp := false
  autoPlay := false
  directive := ⟨.stop, 7680, 0, 0#8⟩
  starvations := 0
  discontinuities := 0

/-- R144. -/
def SeekRecord.reset : SeekRecord where
  target := 0
  start := 0
  prime := 512
  shorts := 0

/-- R109: frame builds are spaced from pin reset; P stands (R8). -/
def Timing.reset : Timing where
  phase := 0
  build := 0
  rate := 0
  part := 0

/-- R23. -/
def Intake.reset : Intake where
  attached := false
  base := 0
  q := 0
  policy := .hold
  index := 0
  owned := 0
  lastImage := 0#104
  state := .running
  endStop := false
  linesConsumed := 0
  gapsFilled := 0
  damaged := 0
  duplicates := 0

/-- A debouncer with no candidate (R44). -/
def Debouncer.clear : Debouncer := ⟨none, 0⟩

/-- R44. -/
def Reading.reset : Reading where
  filters := vtab 100 fun _ => .closed
  debouncers := ⟨Debouncer.clear, Debouncer.clear⟩
  history := []
  signature := 0xFFFF#16
  signatureValid := true
  onRun := 2
  offRun := 3
  stepStable := 3
  leaderMask := allTracks
  specks := 0

/-- R65. -/
def Expression.reset : Expression where
  b := ⟨0, 0⟩
  w256 := ⟨0, 0⟩
  level := ⟨120, 120⟩
  gain := 128
  balance := 0
  splitKey := 44
  steps := #v[120, 200, 280, 360, 440, 520, 600, 680]
  wMax := 280
  upSlow := 200
  upFast := 1400
  downSlow := 300
  downFast := 1400

/-- A SILENT track (R84, R85); its key is not meaningful. -/
def TrackRec.silent : TrackRec where
  state := .silent
  releaseQueued := false
  key := 0
  inForce := none
  openNote := none
  queued := 0

/-- A key record after pin reset (R84). -/
def KeyRec.reset : KeyRec where
  owners := 0
  last := .none
  lastPos := none
  lastPw10 := 0
  countdown := 0
  offDue := false

/-- R84. -/
def Scheduler.reset : Scheduler where
  tracks := vtab 88 fun _ => TrackRec.silent
  keys := vtab 88 fun _ => KeyRec.reset
  timeline := []
  nextSeq := 0
  transposition := 0
  lateStrikes := 0
  staleDrops := 0
  restrikes := 0

/-- A key channel after pin reset (R107). -/
def KeyChannel.reset : KeyChannel where
  state := .off
  heat := 0
  pw10 := 0
  start := 0
  test := false

/-- A chain link record after pin reset (R108). -/
def Chain.reset : Chain where
  state := .probing
  goodRun := 0
  badRun := 0
  seq := 0#8
  lastSent := none
  echo := .none
  wire := []

/-- R106 to R108. -/
def Drive.reset : Drive where
  busy := []
  thermalCaps := 0
  suppressed := 0
  channels := vtab 88 fun _ => KeyChannel.reset
  pedalHeat := ⟨0, 0⟩
  chains := vtab 4 fun _ => Chain.reset
  builtMap := defaultMap

/-- R179. -/
def FrameCheck.reset : FrameCheck where
  chain := 0
  left := 0
  register := 0xFFFF#16
  result := 0#16
  done := false

/-- R179. -/
def TestPulse.reset : TestPulse where
  phase := .none
  output := 0
  pw10 := 0
  moved := false

/-- R127. -/
def PedalRec.reset : PedalRec where
  state := .rest
  roll := .up
  override := .roll
  ownRequest := false
  duty := 0
  figures := LiftFigures.builtIn
  countdown := 0
  stepped := false

/-- A live cue entry made from a staged one, with its hit counter (R139). -/
def Cue.ofDef (d : CueDef) (hits : Nat) : Cue where
  line := d.line
  target := d.target
  action := d.action
  once := d.once
  appliedArmed := d.armed
  armed := d.armed
  hits := hits

/-- R138. -/
def CueUnit.reset : CueUnit where
  live := vtab 32 fun _ => Cue.ofDef CueDef.empty 0
  last := none

/-- R153: the settings load begins at pin reset. -/
def TableStore.reset : TableStore where
  live := Tables.builtIn
  generation := 0
  appliedProfile := 0
  link := .loading
  storeCopy := []
  lastStore := .none

/-- R167. -/
def PortRec.reset : PortRec where
  assembler := []
  response := none
  window := 0
  pending := 0#16
  mask := 0#16
  drive := .openDrain
  worst := 0
  sdo := []

end Sys2Proof.Machine
end

