-- ==== Sys2Proof/Machine/State.lean ====
section
/-! DEFINITION. The state of the part as plain data: every record the manual gives a block, the record memory, the
external settings memory, and the queue of commands that wait. -/

namespace Sys2Proof.Machine

/-- Why a step would stop with a fault.  NO CONSTRUCTOR: the manual describes no stop of the part.  Every request is
answered, whatever it asks (R168, R170), every address is tested before it is used (R171, R172, R25), and every event
has its effect or does not occur.  Safe: there is nothing to stop on. -/
inductive Fault where
  deriving DecidableEq, Repr

/-- Why a step would have no meaning. -/
inductive Refusal where
  /-- Raised by `exec` alone, for a command that has no meaning yet; no command is left so.  Safe. -/
  | notModelled (mnemonic : String)
  deriving DecidableEq, Repr

/-- The state of the part. -/
structure State where
  /-- The Roll Clock (R1). -/
  clock : RollClock
  /-- The seek record, held by the Roll Clock (R144). -/
  seek : SeekRecord
  /-- Time within the drive period and within the line fraction; MODEL'S OWN. -/
  timing : Timing
  /-- The Intake Unit (R23). -/
  intake : Intake
  /-- The Reading Unit (R44). -/
  reading : Reading
  /-- The Expression Unit (R65). -/
  expr : Expression
  /-- The Scheduler (R84). -/
  sched : Scheduler
  /-- The Drive Unit (R106 to R108). -/
  drive : Drive
  /-- The frame check record (R179). -/
  check : FrameCheck
  /-- The test pulse record (R179). -/
  test : TestPulse
  /-- The Pedal Unit (R127). -/
  pedals : PerPedal PedalRec
  /-- The Cue Unit (R138). -/
  cues : CueUnit
  /-- The Table Store (R153). -/
  tables : TableStore
  /-- The port records (R167). -/
  ports : PerPort PortRec
  /-- The record memory, 8192 bytes (R167). -/
  mem : Mem
  /-- The external settings memory as the settings line has written it (R160, R164, R166). -/
  settings : Mem
  /-- How many free values have been drawn; MODEL'S OWN. -/
  freeDraws : Nat
  /-- The commands waiting, first in first out. -/
  pending : List Instr
  deriving DecidableEq, Repr

/-- The state right after pin reset: every block at the values R1, R23, R44, R65, R84, R106 to R108, R127, R138, R144,
R153, R167 and R179 state, the settings load in progress, nothing listed in either memory, no command waiting. -/
def State.reset : State where
  clock := RollClock.reset
  seek := SeekRecord.reset
  timing := Timing.reset
  intake := Intake.reset
  reading := Reading.reset
  expr := Expression.reset
  sched := Scheduler.reset
  drive := Drive.reset
  check := FrameCheck.reset
  test := TestPulse.reset
  pedals := ⟨PedalRec.reset, PedalRec.reset⟩
  cues := CueUnit.reset
  tables := TableStore.reset
  ports := ⟨PortRec.reset, PortRec.reset⟩
  mem := []
  settings := []
  freeDraws := 0
  pending := []

/-- The answer of a command's meaning. -/
abbrev Answer := Host.Outcome State Fault Refusal

end Sys2Proof.Machine
end

