-- ==== Sys2Proof/Machine/Operands.lean ====
section
/-! DEFINITION. Byte layouts: the fields of the tables in record memory (R154, R189), of the settings image (R160), of
the scan-line slot (R188), of a drive frame (R191), and the CRC of the leader signature and of FRAME CRC (R58). -/

namespace Sys2Proof.Machine

/-! ### Little-endian fields -/

/-- The figure that bytes spell, lowest first (section "Numbers and layout"). -/
def leNat : List Byte → Nat
  | [] => 0
  | b :: t => b.toNat + 256 * leNat t

/-- A figure as `n` bytes, lowest first. -/
def natBytes : Nat → Nat → List Byte
  | 0, _ => []
  | n + 1, v => BitVec.ofNat 8 v :: natBytes n (v / 256)

/-- The field of `n` bytes at offset `off`. -/
def field (bs : List Byte) (off n : Nat) : Nat := leNat ((bs.drop off).take n)

/-! ### The table area (R154) -/

/-- The table area is 0x0C00–0x157F, 2432 bytes. -/
def tableBase : Nat := 0x0C00

def tableLength : Nat := 2432

/-- Offsets within the table area. -/
def leaderMaskOffset : Nat := 0x0180

def pedalOffset : Nat := 0x0190

def driveOffset : Nat := 0x01B0

def cueOffset : Nat := 0x01C0

def mapOffset : Nat := 0x0340

def voicingOffset : Nat := 0x0400

/-- Profile entry `i` (R189). -/
def decodeProfile (area : List Byte) (i : Nat) : Profile :=
  let e := (area.drop (48 * i)).take 48
  { valid := field e 0 1
    splitKey := field e 1 1
    signature := BitVec.ofNat 16 (field e 2 2)
    vNom16 := field e 4 2
    readAhead := field e 6 2
    prime := field e 8 2
    onRun := field e 10 1
    offRun := field e 11 1
    stepStable := field e 12 1
    steps := vtab 8 fun j => field e (14 + 2 * j) 2
    wMax := field e 30 2
    upSlow := field e 32 2
    upFast := field e 34 2
    downSlow := field e 36 2
    downFast := field e 38 2 }

def encodeProfile (p : Profile) : List Byte :=
  natBytes 1 p.valid ++ natBytes 1 p.splitKey ++ natBytes 2 p.signature.toNat ++ natBytes 2 p.vNom16
    ++ natBytes 2 p.readAhead ++ natBytes 2 p.prime ++ natBytes 1 p.onRun ++ natBytes 1 p.offRun
    ++ natBytes 1 p.stepStable ++ natBytes 1 0 ++ p.steps.toList.flatMap (natBytes 2) ++ natBytes 2 p.wMax
    ++ natBytes 2 p.upSlow ++ natBytes 2 p.upFast ++ natBytes 2 p.downSlow ++ natBytes 2 p.downFast ++ natBytes 8 0

/-- The leader mask, byte i bit j selecting track 8i + j (R189); the bits for tracks 100 to 103 are taken as zero
whatever the staged byte holds (R45). -/
def decodeLeaderMask (area : List Byte) : BitVec 104 :=
  BitVec.ofNat 104 (field area leaderMaskOffset 13) &&& allTracks

def encodeLeaderMask (m : BitVec 104) : List Byte := natBytes 13 m.toNat ++ natBytes 3 0

/-- Pedal entry `i`, DAMPER first (R189). -/
def decodePedal (area : List Byte) (i : Nat) : PedalEntry :=
  let e := (area.drop (pedalOffset + 16 * i)).take 16
  { figures :=
      { kickDuty := field e 0 1
        kickTime := field e 2 2
        easeStep := field e 4 1
        easeInterval := field e 5 1
        holdDuty := field e 1 1 }
    liftLead := field e 6 2
    dropLead := field e 8 2 }

def encodePedal (e : PedalEntry) : List Byte :=
  natBytes 1 e.figures.kickDuty ++ natBytes 1 e.figures.holdDuty ++ natBytes 2 e.figures.kickTime
    ++ natBytes 1 e.figures.easeStep ++ natBytes 1 e.figures.easeInterval ++ natBytes 2 e.liftLead
    ++ natBytes 2 e.dropLead ++ natBytes 6 0

/-- The drive configuration (R189). -/
def decodeDrive (area : List Byte) : DriveConfig :=
  let e := (area.drop driveOffset).take 16
  { k := field e 0 1, cooling := field e 1 1, hWarn := field e 2 2, hLim := field e 4 2 }

def encodeDrive (d : DriveConfig) : List Byte :=
  natBytes 1 d.k ++ natBytes 1 d.cooling ++ natBytes 2 d.hWarn ++ natBytes 2 d.hLim ++ natBytes 10 0

/-- Cue actions by code (R189); none for a code that names no action. -/
def decodeCueAction : Nat → Option CueAction
  | 0 => some .none
  | 1 => some .notice
  | 2 => some .stop
  | 3 => some .loop
  | _ => none

/-- The 12 bytes of staged cue entry `i`. -/
def cueBytes (area : List Byte) (i : Nat) : List Byte := (area.drop (cueOffset + 12 * i)).take 12

/-- Cue entry `i`, its counter field apart (R189). -/
def decodeCue (area : List Byte) (i : Nat) : CueDef :=
  let e := cueBytes area i
  { line := field e 0 4
    target := field e 4 4
    action := (decodeCueAction (field e 8 1)).getD .none
    once := (field e 9 1).testBit 1
    armed := (field e 9 1).testBit 0 }

/-- Where the two bytes of a channel map entry put an output (R189); none for an entry that names neither a chain and
channel in range nor UNUSED (R119). -/
def decodePlace (chain channel : Nat) : Option Place :=
  if chain = 0xFF then some .unused
  else if chain < 4 ∧ channel < 24 then some (.wired chain channel)
  else none

/-- The channel map entry of output `o`. -/
def mapEntry (area : List Byte) (o : Nat) : Option Place :=
  let e := (area.drop (mapOffset + 2 * o)).take 2
  decodePlace (field e 0 1) (field e 1 1)

def encodePlace : Place → List Byte
  | .unused => [0xFF#8, 0#8]
  | .wired chain channel => natBytes 1 chain ++ natBytes 1 channel

/-- Voicing entry of key `k` (R189). -/
def decodeVoicing (area : List Byte) (k : Nat) : Voicing :=
  let e := (area.drop (voicingOffset + 16 * k)).take 16
  { e0 := field e 0 2
    e1 := field e 2 2
    tSoft := field e 4 2
    tLoud := field e 6 2
    holdDuty := field e 8 1
    mute := (field e 9 1).testBit 0
    dampLead := field e 10 2
    rgap := field e 12 2 }

def encodeVoicing (v : Voicing) : List Byte :=
  natBytes 2 v.e0 ++ natBytes 2 v.e1 ++ natBytes 2 v.tSoft ++ natBytes 2 v.tLoud ++ natBytes 1 v.holdDuty
    ++ natBytes 1 (if v.mute then 1 else 0) ++ natBytes 2 v.dampLead ++ natBytes 2 v.rgap ++ natBytes 2 0

/-- The tables that the bytes of a table area give, the cue table apart. -/
def decodeTables (area : List Byte) : Tables where
  profiles := vtab 8 (decodeProfile area)
  leaderMask := decodeLeaderMask area
  pedals := ⟨decodePedal area 0, decodePedal area 1⟩
  drive := decodeDrive area
  map := vtab 90 fun o => (mapEntry area o).getD .unused
  voicing := vtab 88 (decodeVoicing area)

/-- The cue table that the bytes of a table area give. -/
def decodeCues (area : List Byte) : Vector CueDef 32 := vtab 32 (decodeCue area)

/-- The 2432 bytes of a table area that hold the given tables, an empty cue table, and zeros elsewhere (R162). -/
def encodeTables (t : Tables) : List Byte :=
  t.profiles.toList.flatMap encodeProfile ++ encodeLeaderMask t.leaderMask
    ++ encodePedal t.pedals.damper ++ encodePedal t.pedals.shift ++ encodeDrive t.drive ++ natBytes 384 0
    ++ t.map.toList.flatMap encodePlace ++ natBytes 12 0 ++ t.voicing.toList.flatMap encodeVoicing

/-! ### Validation (R156, R157) -/

/-- The ranges of a profile entry, valid and signature apart (R156). -/
def profileInRange (p : Profile) : Bool :=
  decide (1280 ≤ p.vNom16 ∧ p.vNom16 ≤ 19200) && decide (128 ≤ p.readAhead ∧ p.readAhead ≤ 2048)
    && decide (p.prime ≤ 2048) && decide (30 ≤ p.splitKey ∧ p.splitKey ≤ 60)
    && decide (1 ≤ p.onRun ∧ p.onRun ≤ 4) && decide (1 ≤ p.offRun ∧ p.offRun ≤ 6)
    && decide (1 ≤ p.stepStable ∧ p.stepStable ≤ 8)
    && (p.steps.toList.all fun x => x ≤ 1023)
    && ((p.steps.toList.zip p.steps.toList.tail).all fun x => x.1 ≤ x.2)
    && decide (p.wMax ≤ 1023)
    && ([p.upSlow, p.upFast, p.downSlow, p.downFast].all fun r => 10 ≤ r && r ≤ 5000)

/-- R156: entry 0 is checked whatever its valid field holds; entries 1 to 7 are valid (and checked), not valid, or
carry another value and fail. -/
def profileOk (area : List Byte) (i : Nat) : Bool :=
  let p := decodeProfile area i
  if i = 0 then profileInRange p
  else if p.valid = 0 then true
  else if p.valid = 1 then profileInRange p
  else false

/-- R157, pedal entries. -/
def pedalOk (area : List Byte) (i : Nat) : Bool :=
  let e := decodePedal area i
  decide (10 ≤ e.figures.kickTime ∧ e.figures.kickTime ≤ 200) && decide (1 ≤ e.figures.easeStep ∧ e.figures.easeStep ≤ 64)
    && decide (1 ≤ e.figures.easeInterval ∧ e.figures.easeInterval ≤ 20) && decide (e.liftLead ≤ 1500)
    && decide (e.dropLead ≤ 1500)

/-- R114, R157, drive configuration. -/
def driveOk (area : List Byte) : Bool :=
  let d := decodeDrive area
  decide (4 ≤ d.k ∧ d.k ≤ 16) && decide (1 ≤ d.cooling ∧ d.cooling ≤ 50) && decide (1000 ≤ d.hWarn)
    && decide (d.hWarn ≤ d.hLim) && decide (d.hLim ≤ 3999)

/-- R157, cue table. -/
def cueOk (area : List Byte) (i : Nat) : Bool :=
  let d := decodeCue area i
  match decodeCueAction (field (cueBytes area i) 8 1) with
  | none => false
  | some .none => true
  | some .loop => decide (64 ≤ d.line) && decide (d.target ≠ d.line)
  | some .notice | some .stop => decide (64 ≤ d.line)

/-- R119, R157, channel map: a place in range or UNUSED, and no lower-numbered output at the same place. -/
def mapOk (area : List Byte) (o : Nat) : Bool :=
  match mapEntry area o with
  | none => false
  | some .unused => true
  | some pl => (List.range o).all fun j => mapEntry area j != some pl

/-- R157, voicing table. -/
def voicingOk (area : List Byte) (k : Nat) : Bool :=
  let v := decodeVoicing area k
  decide (100 ≤ v.e0 ∧ v.e0 ≤ 4000) && decide (v.e0 + 100 ≤ v.e1 ∧ v.e1 ≤ 8000)
    && decide (200 ≤ v.tSoft ∧ v.tSoft ≤ 2000) && decide (50 ≤ v.tLoud ∧ v.tLoud ≤ 600)
    && decide (v.tLoud ≤ v.tSoft) && decide (v.dampLead ≤ 800) && decide (100 ≤ v.rgap ∧ v.rgap ≤ 1000)

/-- The first entry, by index, that fails. -/
def firstBad (n : Nat) (ok : Nat → Bool) : Option Nat := (List.range n).find? fun i => !ok i

/-- R158, test 2: the number of the first failing table and the index of its first failing entry; none when every
entry passes.  The leader mask, table 2, is not checked. -/
def firstInvalid (area : List Byte) : Option (Nat × Nat) :=
  ((firstBad 8 (profileOk area)).map fun i => (1, i))
    <|> ((firstBad 2 (pedalOk area)).map fun i => (3, i))
    <|> ((firstBad 1 fun _ => driveOk area).map fun i => (4, i))
    <|> ((firstBad 32 (cueOk area)).map fun i => (5, i))
    <|> ((firstBad 90 (mapOk area)).map fun i => (6, i))
    <|> ((firstBad 88 (voicingOk area)).map fun i => (7, i))

/-! ### The settings image (R160) -/

/-- The format tag of a stored image. -/
def imageTag : Nat := 0x7288

/-- The sum of the table-area bytes modulo 65 536. -/
def areaSum (area : List Byte) : Nat := (area.foldl (fun acc b => acc + b.toNat) 0) % 65536

/-- The image of a table area: header (tag, length, generation, checksum) and the area itself. -/
def settingsImage (generation : Nat) (area : List Byte) : List Byte :=
  natBytes 2 imageTag ++ natBytes 2 tableLength ++ natBytes 2 generation ++ natBytes 2 (areaSum area) ++ area

/-! ### The scan-line slot (R188) -/

/-- A slot has 20 bytes. -/
def slotLength : Nat := 20

/-- Status codes of a returned slot. -/
def SlotStatus.code : SlotStatus → Nat
  | .consumed => 1
  | .gapFilled => 2
  | .damagedHeld => 3
  | .damagedHalted => 4
  | .duplicate => 5
  | .skipped => 6
  | .flushed => 7
  | .discontinuity => 8

/-- The line number field of a slot's bytes. -/
def slotNumber (slot : List Byte) : Nat := field slot 1 4

/-- The track image of a slot's bytes: track i in byte 5 + i/8, bit i mod 8. -/
def slotImage (slot : List Byte) : BitVec 104 := BitVec.ofNat 104 (field slot 5 13)

/-- R30: 0x3C exclusive-ORed with the four line-number bytes and the thirteen image bytes equals the check byte. -/
def slotCheckOk (slot : List Byte) : Bool := checkByte ((slot.drop 1).take 17) == slot.getD 18 0#8

def slotOwn (control : Byte) : Bool := control.getLsbD 0

def slotWrap (control : Byte) : Bool := control.getLsbD 1

def slotEnd (control : Byte) : Bool := control.getLsbD 2

/-- R24, R188: the status byte, the status in bits 0 to 3 and the wrap mark in bit 7. -/
def statusByte (st : SlotStatus) (wrapMark : Bool) : Byte :=
  BitVec.ofNat 8 (st.code + if wrapMark then 0x80 else 0)

/-! ### The CRC (R58, R181) -/

/-- One bit into the register: the feedback is bit 15 exclusive-ORed with the bit, the register is shifted toward bit
15, and the feedback brings in 0x1021. -/
def crcBit (reg : BitVec 16) (bit : Bool) : BitVec 16 :=
  if (reg.getLsbD 15 ^^ bit) then (reg <<< 1) ^^^ 0x1021#16 else reg <<< 1

/-- One byte into the register, bit 0 first. -/
def crcByte (reg : BitVec 16) (b : Byte) : BitVec 16 :=
  (List.range 8).foldl (fun r i => crcBit r (b.getLsbD i)) reg

def crcBytes (reg : BitVec 16) (bs : List Byte) : BitVec 16 := bs.foldl crcByte reg

/-- The 13 bytes of a track image, byte 0 first. -/
def imageBytes (img : BitVec 104) : List Byte := natBytes 13 img.toNat

/-! ### Drive frames (R191) -/

/-- What one channel of a frame carries. -/
inductive DriveSlot where
  | off
  | pulse (pw10 : Nat)
  | hold (duty : Nat)
  deriving DecidableEq, Repr

/-- The slot word: bits 0–9 value, bits 14–15 mode. -/
def DriveSlot.word : DriveSlot → Nat
  | .off => 0
  | .pulse w => 0x4000 + w % 1024
  | .hold d => 0x8000 + d % 1024

/-- A drive frame: sequence number, 24 slots of two bytes, check byte (R121, R191). -/
def driveFrame (seq : Byte) (slots : List DriveSlot) : List Byte :=
  let body := seq :: slots.flatMap fun sl => natBytes 2 sl.word
  body ++ [checkByte body]

end Sys2Proof.Machine
end

