-- ==== Sys2Proof/Machine/Flags.lean ====
section
/-! DEFINITION. Statuses, attention flags and the ATTN lines, the derived directive, the backed-up flag, and the packed
records that show them (R187, R190). -/

namespace Sys2Proof.Machine

/-! ### Codes (R185, R186) -/

def Status.code : Status → Nat
  | .done => 0x00
  | .clamped => 0x01
  | .refusedState => 0x10
  | .refusedRange => 0x11
  | .refusedFence => 0x12
  | .refusedBusy => 0x13
  | .refusedTable => 0x14
  | .frameFault => 0x20
  | .unknownRequest => 0x21

def RollState.code : RollState → Nat
  | .empty => 0
  | .leader => 1
  | .ready => 2
  | .playing => 3
  | .starved => 4
  | .paused => 5
  | .seeking => 6
  | .preroll => 7
  | .stepping => 8
  | .ended => 9

def DirectiveKind.code : DirectiveKind → Nat
  | .stop => 0
  | .run => 1
  | .hold => 2
  | .seek => 3

def Attention.bit : Attention → Nat
  | .cue => 0
  | .ended => 1
  | .starved => 2
  | .discontinuity => 3
  | .damage => 4
  | .chain => 5
  | .thermal => 6
  | .settings => 7
  | .store => 8
  | .seek => 9
  | .directive => 10

def ChainState.code : ChainState → Nat
  | .probing => 0
  | .online => 1
  | .faulted => 2

def StoreResult.code : StoreResult → Nat
  | .none => 0
  | .ok => 1
  | .verifyFailed => 2

def PedalState.code : PedalState → Nat
  | .rest => 0
  | .waitingSlot => 1
  | .kick => 2
  | .ease => 3
  | .hold => 4

def PedalRoll.code : PedalRoll → Nat
  | .up => 0
  | .down => 1

def Override.code : Override → Nat
  | .roll => 0
  | .on => 1
  | .off => 2

/-- The pedal byte (R186). -/
def PedalRec.code (r : PedalRec) : Nat := r.state.code + 8 * r.roll.code + 16 * r.override.code

/-! ### Attention (R175, R176) -/

/-- The bits that name a source (R186): 0 to 10. -/
def sourceBits : BitVec 16 := 0x07FF#16

/-- The set that holds one source. -/
def Attention.set (a : Attention) : BitVec 16 := 1#16 <<< a.bit

/-- R175: a raised source sets its flag in both ports' pending sets. -/
def raise (a : Attention) (s : State) : State :=
  { s with ports := s.ports.map fun r => { r with pending := r.pending ||| a.set } }

/-- R176: the ATTN line is asserted while the pending set and the mask meet. -/
def PortRec.attn (r : PortRec) : Bool := r.pending &&& r.mask != 0#16

/-- The level of an ATTN pin (R176). -/
inductive PinLevel where
  | low
  | high
  | undriven
  deriving DecidableEq, Repr

/-- R176: asserted is low under both drives; released is undriven under OPEN_DRAIN and high under PUSH_PULL. -/
def PortRec.attnPin (r : PortRec) : PinLevel :=
  if r.attn then .low
  else match r.drive with
    | .openDrain => .undriven
    | .pushPull => .high

/-! ### The directive (R20, R21) -/

/-- The margin M = N_in − floor(P/256) (R6). -/
def margin (s : State) : Nat := s.clock.nIn - s.clock.p / 256

/-- The kind of the directive by the roll state (R20). -/
def directiveKind (s : State) : DirectiveKind :=
  match s.clock.state with
  | .empty | .paused | .ended => .stop
  | .leader | .preroll => .run
  | .ready => if margin s < s.clock.readAhead then .run else .hold
  | .playing | .starved => if s.clock.backedUp then .hold else .run
  | .stepping => if margin s < 64 then .run else .hold
  | .seeking => .seek

/-- The seek start of the directive (R20). -/
def directiveStart (s : State) : Nat :=
  match s.clock.state with
  | .seeking => s.seek.start
  | _ => 0

/-- R21: the directive is derived again; where it differs from the record held, the record is rewritten whole, the
sequence number advances and DIRECTIVE attention is raised. -/
def rederive (s : State) : State :=
  let held := s.clock.directive
  if held.kind = directiveKind s ∧ held.rate = s.clock.vCmd16 ∧ held.seekStart = directiveStart s then s
  else
    raise .directive
      { s with clock := { s.clock with directive := ⟨directiveKind s, s.clock.vCmd16, directiveStart s, held.seq + 1⟩ } }

/-! ### Back-pressure (R22) -/

/-- R22: the backed-up flag after the owned count has changed. -/
def hysteresis (q owned : Nat) (flag : Bool) : Bool :=
  if q ≤ owned + 2 then true else if owned ≤ q / 2 then false else flag

/-- R22, R26: the owned count takes a new value and the hysteresis is applied. -/
def setOwned (n : Nat) (s : State) : State :=
  { s with
    intake := { s.intake with owned := n }
    clock := { s.clock with backedUp := hysteresis s.intake.q n s.clock.backedUp } }

/-! ### Figures for the capture record -/

/-- Tracks in SOUNDING or RELEASING (R84). -/
def TrackRec.sounds (r : TrackRec) : Bool :=
  match r.state with
  | .sounding | .releasing => true
  | .silent | .pending | .interrupted => false

def soundingCount (s : State) : Nat := s.sched.tracks.toList.countP TrackRec.sounds

/-- R187: the READ STATUS payload for a port. -/
def statusPayload (p : Port) (s : State) : List Byte :=
  let busy := match s.tables.link with
    | .storing | .verifying => 1
    | .idle | .loading => 0
  let loading := match s.tables.link with
    | .loading => 1
    | .idle | .storing | .verifying => 0
  let halted := match s.intake.state with
    | .halted => 1
    | .running => 0
  natBytes 1 s.clock.state.code ++ natBytes 1 s.clock.directive.kind.code ++ natBytes 2 s.clock.directive.rate
    ++ natBytes 4 s.clock.directive.seekStart ++ [s.clock.directive.seq] ++ natBytes 2 (s.ports.get p).pending.toNat
    ++ natBytes 1 (halted + 2 * busy + 4 * s.tables.lastStore.code + 16 * loading)

/-- The four bytes of a half in the capture record (R190): L, b, W256. -/
def halfWord (e : Expression) (h : Half) : Nat := e.level.get h + 1024 * e.b.get h + 8192 * e.w256.get h

/-- R190: the 64 bytes of a port's capture record. -/
def captureRecord (p : Port) (s : State) : List Byte :=
  natBytes 1 (s.clock.state.code + 16 * s.tables.appliedProfile + if s.check.done then 128 else 0)
    ++ natBytes 1 (s.clock.p % 256) ++ natBytes 4 (s.clock.p / 256) ++ natBytes 4 s.clock.nIn
    ++ natBytes 2 (BitVec.ofInt 16 s.clock.c).toNat ++ natBytes 2 s.clock.vCmd16
    ++ natBytes 3 (margin s % 4096 + 4096 * s.pedals.damper.code + 262144 * s.pedals.shift.code)
    ++ natBytes 4 (halfWord s.expr .bass) ++ natBytes 4 (halfWord s.expr .treble)
    ++ natBytes 1 (soundingCount s) ++ natBytes 2 (s.sched.timeline.length + 512 * s.drive.busy.length)
    ++ natBytes 1 ((s.drive.chains.toList.mapIdx fun i c => 4 ^ i * c.state.code).sum)
    ++ natBytes 3 ((s.ports.get p).worst + 131072 * s.cues.last.getD 63)
    ++ natBytes 2 s.tables.generation ++ natBytes 2 s.check.result.toNat ++ natBytes 4 s.intake.linesConsumed
    ++ natBytes 2 s.intake.gapsFilled ++ natBytes 2 s.intake.damaged ++ natBytes 2 s.intake.duplicates
    ++ natBytes 2 s.clock.starvations ++ natBytes 2 s.clock.discontinuities ++ natBytes 2 s.reading.specks
    ++ natBytes 2 s.sched.lateStrikes ++ natBytes 2 s.sched.staleDrops ++ natBytes 2 s.sched.restrikes
    ++ natBytes 2 s.drive.thermalCaps ++ natBytes 2 s.drive.suppressed ++ natBytes 2 s.seek.shorts

/-- R169: the bytes of a response, its length and check bytes among them. -/
def Response.bytes (r : Response) : List Byte :=
  let body := BitVec.ofNat 8 r.status.code :: BitVec.ofNat 8 r.payload.length :: r.payload
  body ++ [checkByte body]

end Sys2Proof.Machine
end

