-- ==== Sys2Proof/Machine/Ops.lean ====
section
/-! DEFINITION. The operations over record memory, the ports and the ring's slots that every block shares. -/

namespace Sys2Proof.Machine

/-! ### Record memory -/

/-- The byte of record memory at an address. -/
def readByte (s : State) (a : Nat) : Byte := Mem.read recordFill s.mem a

/-- Bytes of record memory, taken in one event (R171). -/
def readBytes (s : State) (a n : Nat) : List Byte := Mem.readBlock recordFill s.mem a n

/-- Bytes written to record memory in one event (R172). -/
def writeBytes (a : Nat) (bs : List Byte) (s : State) : State :=
  { s with mem := Mem.writeBlock recordFill s.mem a bs }

/-- The staged table area (R154). -/
def stagedArea (s : State) : List Byte := readBytes s tableBase tableLength

/-- The first byte past the table area. -/
def tableEnd : Nat := tableBase + tableLength

/-- The fence between the scan region and the console region (R173). -/
def fence : Nat := 0x0C00

/-- The offset of a port's capture record (R177). -/
def captureBase : Port → Nat
  | .s => 0x0BC0
  | .c => 0x1F00

/-! ### Requests and responses -/

/-- R169: a response is placed in a port's buffer, whatever that held. -/
def respond (p : Port) (r : Response) (s : State) : State :=
  { s with ports := s.ports.modify p fun x => { x with response := some r } }

/-- R168: the frame assembler gathers up to 73 bytes of a request transfer, and the port clocks out 0xFF for each
byte clocked in. -/
def gather (p : Port) (frame : List Byte) (s : State) : State :=
  { s with
    ports := s.ports.modify p fun x =>
      { x with assembler := frame.take 73, sdo := List.replicate frame.length 0xFF#8 } }

/-- A response without payload. -/
def bare (st : Status) : Response := ⟨st, []⟩

/-- The steps every request shares (R168, R169): its bytes are gathered, test 3 refuses it during a settings load, and
otherwise its owner decides the effect and the response. -/
def request (p : Port) (i : Instr) (owner : State → State × Response) (s : State) : Answer :=
  let s := gather p (encodeRequest i) s
  if s.tables.link = .loading then .next (respond p (bare .refusedBusy) s)
  else
    let a := owner s
    .next (respond p a.2 a.1)

/-- An owner's refusal: nothing changes (R170). -/
def refuse (st : Status) (s : State) : State × Response := (s, bare st)

/-- A request taken without a payload to answer. -/
def taken (s : State) : State × Response := (s, bare .done)

/-! ### The ring (R23 to R26) -/

/-- The offset of slot `i` (section 2.1). -/
def slotAddr (k : Intake) (i : Nat) : Nat := k.base + slotLength * i

/-- The 20 bytes of slot `i` as record memory holds them. -/
def slotBytes (s : State) (i : Nat) : List Byte := readBytes s (slotAddr s.intake i) slotLength

/-- The control byte of slot `i`. -/
def slotControl (s : State) (i : Nat) : Byte := readByte s (slotAddr s.intake i)

/-- Slots of a ring whose OWN flag is set in a memory (R26). -/
def countOwned (m : Mem) (k : Intake) : Nat :=
  (List.range k.q).countP fun i => slotOwn (Mem.read recordFill m (slotAddr k i))

/-- R24: slot `i` is returned in one event: status byte with the wrap mark, control byte with OWN cleared and its other
bits as the scanner left them, owned count lowered. -/
def returnSlot (st : SlotStatus) (i : Nat) (s : State) : State :=
  let a := slotAddr s.intake i
  let control := readByte s a
  let mark := slotWrap control != decide (i + 1 = s.intake.q)
  let s := writeBytes (a + 19) [statusByte st mark] s
  let s := writeBytes a [control &&& 0xFE#8] s
  setOwned (s.intake.owned - 1) s

/-- The index after `i`: slot 0 follows slot Q−1 (R24). -/
def nextIndex (k : Intake) (i : Nat) : Nat := if i + 1 < k.q then i + 1 else 0

/-- R26: a completed Port S WRITE is compared against the ring, slot by slot, and after each change of the count the
hysteresis of R22 is applied.  The order of the slots, ascending, is a DESIGN CHOICE (assumption log 28). -/
def ringCompare (before : Mem) (s : State) : State :=
  if s.intake.attached then
    (List.range s.intake.q).foldl
      (fun t i =>
        let was := slotOwn (Mem.read recordFill before (slotAddr s.intake i))
        let isNow := slotOwn (Mem.read recordFill s.mem (slotAddr s.intake i))
        if isNow && !was then setOwned (t.intake.owned + 1) t
        else if was && !isNow then setOwned (t.intake.owned - 1) t
        else t)
      s
  else s

/-- R40: every owned slot is returned FLUSHED, `n` slots looked at in ring order from slot `i`. -/
def flushAll : Nat → Nat → State → State
  | 0, _, s => s
  | n + 1, i, s =>
    let s := if slotOwn (slotControl s i) then returnSlot .flushed i s else s
    flushAll n (nextIndex s.intake i) s

/-- R41: the unbroken run of owned slots at the consume index is returned FLUSHED, at most `n` of them, and the consume
index moves past each. -/
def flushRun : Nat → State → State
  | 0, s => s
  | n + 1, s =>
    let i := s.intake.index
    if slotOwn (slotControl s i) then
      let s := returnSlot .flushed i s
      flushRun n { s with intake := { s.intake with index := nextIndex s.intake i } }
    else s

/-! ### Latching a profile (R3, R45, R66, R144) -/

/-- The commanded rate (R3), before its clamp. -/
def rawRate (vNom16 tau : Nat) : Nat := (vNom16 * tau + 500) / 1000

/-- The commanded rate (R3). -/
def commandedRate (vNom16 tau : Nat) : Nat := clampNat 1280 19200 (rawRate vNom16 tau)

/-- Live profile `i`. -/
def liveProfile (s : State) (i : Nat) : Profile := vget s.tables.live.profiles i Profile.builtIn

/-- The Roll Clock latches the rate and read-ahead, and the seek record the prime (R3, R144). -/
def latchClock (pr : Profile) (s : State) : State :=
  { s with
    clock :=
      { s.clock with
        vNom16 := pr.vNom16
        readAhead := pr.readAhead
        vCmd16 := commandedRate pr.vNom16 s.clock.tau }
    seek := { s.seek with prime := pr.prime } }

/-- The Reading Unit latches its run figures (R45). -/
def latchReading (pr : Profile) (s : State) : State :=
  { s with reading := { s.reading with onRun := pr.onRun, offRun := pr.offRun, stepStable := pr.stepStable } }

/-- The Expression Unit latches its shading figures, and both levels become S[0] of the new table (R65, R66). -/
def latchExpression (pr : Profile) (s : State) : State :=
  let l0 := vget pr.steps 0 0
  { s with
    expr :=
      { s.expr with
        splitKey := pr.splitKey
        steps := pr.steps
        wMax := pr.wMax
        upSlow := pr.upSlow
        upFast := pr.upFast
        downSlow := pr.downSlow
        downFast := pr.downFast
        level := ⟨l0, l0⟩ } }

/-- The leader mask is latched from the live mask (R45). -/
def latchMask (s : State) : State := { s with reading := { s.reading with leaderMask := s.tables.live.leaderMask } }

/-- A profile is applied (R153): its index is recorded and each block latches its figures. -/
def applyProfile (i : Nat) (s : State) : State :=
  let pr := liveProfile s i
  let s := { s with tables := { s.tables with appliedProfile := i } }
  latchExpression pr (latchReading pr (latchClock pr s))

end Sys2Proof.Machine
end

