-- ==== Sys2Proof/Machine/Arithmetic.lean ====
section
/-! DEFINITION. The arithmetic of chapter 4 and of the margin servo, as whole numbers (R81). -/

namespace Sys2Proof.Machine

/-- R12: the servo correction for a margin and a read-ahead, in ppm. -/
def servo (m l : Nat) : Int :=
  let d : Int := (m : Int) - (l : Int)
  clampInt (-30000) 30000 (if d > 64 then 60 * (d - 64) else if d < -64 then 60 * (d + 64) else 0)

/-- R8: line fractions per second are 16 · v_cmd16 · (10⁶ + c)/10⁶; one second has 16·10⁶ CLKIN periods, so in 10⁻¹² of
a line fraction P gains v_cmd16 · (10⁶ + c) a period. -/
def playRate (k : RollClock) : Nat := k.vCmd16 * (1000000 + k.c).toNat

/-- R68: the ramp rate by the settled states of SWELL and QUICK. -/
def rampRate (e : Expression) (swell quick : Bool) : Nat :=
  match swell, quick with
  | true, true => e.upFast
  | true, false => e.upSlow
  | false, true => e.downFast
  | false, false => e.downSlow

/-- R69: the increment per line. -/
def rampStep (r v16 : Nat) : Nat := (4096 * r + v16 / 2) / v16

/-- R70, step 2: the swell offset after a line. -/
def nextOffset (w q wMax : Nat) (swell : Bool) : Nat :=
  if swell then min (w + q) (wMax * 256) else w - q

/-- R70, step 3: the half level. -/
def halfLevel (base w : Nat) : Nat := min (base + w / 256) 1023

/-- R71: the half of a roll note track. -/
def trackHalf (e : Expression) (track : Nat) : Half := if track < e.splitKey then .bass else .treble

/-- R73: the balance offset of a half. -/
def balanceOffset (e : Expression) : Half → Int
  | .bass => -4 * e.balance
  | .treble => 4 * e.balance

/-- R73: the level of a strike after the console trims. -/
def trimmedLevel (e : Expression) (h : Half) (level : Nat) : Nat :=
  (clampInt 0 1023 (((level * e.gain / 128 : Nat) : Int) + balanceOffset e h)).toNat

/-- R74: the pulse width in µs. -/
def pulseWidth (v : Voicing) (level : Nat) : Nat := v.e0 + ((v.e1 - v.e0) * level + 511) / 1023

/-- R74: the delivered width in 10 µs units. -/
def strikePw10 (v : Voicing) (level : Nat) : Nat := (pulseWidth v level + 5) / 10

/-- R75: the thermal cap in 10 µs units. -/
def capPw10 (v : Voicing) : Nat := (v.e0 + (v.e1 - v.e0) / 4 + 5) / 10

/-- R76: the flight latency in 0.1 ms. -/
def flightTime (v : Voicing) (level : Nat) : Nat :=
  v.tLoud + (v.tSoft - v.tLoud) * (1023 - level) * (1023 - level) / 1046529

/-- Section 4.6: a time in 0.1 ms as line fractions, rounded down. -/
def timeToRoll (t v16 : Nat) : Nat := t * v16 / 625

/-- R77: the due position of a strike; 0 when the advance exceeds the onset position. -/
def strikeDue (line t v16 : Nat) : Nat := line * 256 - timeToRoll t v16

/-- R78: the due position of a release, a lift or a drop. -/
def leadDue (line lead v16 : Nat) : Nat := line * 256 - timeToRoll lead v16

/-- R79: the gap before a strike that follows a release of the same key. -/
def rgapDistance (rgap v16 : Nat) : Nat := (rgap * v16 + 624) / 625

/-- R79: the gap before a release that follows a strike of the same key. -/
def pulseDistance (pw10 v16 : Nat) : Nat := ((pw10 + 500) * v16 + 6249) / 6250

/-- R80: the stale limit. -/
def staleLimit (v16 : Nat) : Nat := 4 * v16

/-- The roll that a number of drive periods amounts to at the commanded rate (R102, R80: 250 ms of roll is S256). -/
def pausedDistance (periods v16 : Nat) : Nat := 2 * v16 * periods / 125

/-- R98: the late tolerance. -/
def lateTolerance (v16 : Nat) : Nat := 2 * v16 / 125

/-- R95: the countdown after a release, in drive periods. -/
def releaseCountdown (rgap : Nat) : Nat := (rgap + 9) / 10

/-- R95: the countdown after a strike, in drive periods. -/
def strikeCountdown (pw10 : Nat) : Nat := (pw10 + 599) / 100

/-- R112: a pulse of PW10 w runs ceil(w/100) frame builds. -/
def pulseBuilds (pw10 : Nat) : Nat := ceilDiv pw10 100

/-- R87: the physical key a roll note track plays under a transposition, folded into 0..87. -/
def foldKey (track : Nat) (t : Int) : Nat :=
  let k : Int := (track : Int) + t
  (if k > 87 then k - 12 else if k < 0 then k + 12 else k).toNat

end Sys2Proof.Machine
end

