-- ==== Sys2Proof/Machine/Timeline.lean ====
section
/-! DEFINITION. The Scheduler's shared operations (chapter 5): per-key order and release positions, handing on, the
creation of events, the Sounding Table's moves, interruption and clearing. -/

namespace Sys2Proof.Machine

/-! ### Access to tracks, keys and pedals -/

def track (s : State) (n : Nat) : TrackRec := vget s.sched.tracks n TrackRec.silent

def keyRec (s : State) (k : Nat) : KeyRec := vget s.sched.keys k KeyRec.reset

/-- The live voicing entry of key `k`. -/
def liveVoicing (s : State) (k : Nat) : Voicing := vget s.tables.live.voicing k Voicing.builtIn

def setTrack (n : Nat) (f : TrackRec → TrackRec) (s : State) : State :=
  { s with sched := { s.sched with tracks := vmodify s.sched.tracks n f } }

def setKey (k : Nat) (f : KeyRec → KeyRec) (s : State) : State :=
  { s with sched := { s.sched with keys := vmodify s.sched.keys k f } }

def setPedal (pd : Pedal) (f : PedalRec → PedalRec) (s : State) : State :=
  { s with pedals := s.pedals.modify pd f }

def setTimeline (f : List Entry → List Entry) (s : State) : State :=
  { s with sched := { s.sched with timeline := f s.sched.timeline } }

/-- The target of a pedal (R127): the roll state under ROLL, DOWN under ON, UP under OFF. -/
def PedalRec.target (r : PedalRec) : PedalRoll :=
  match r.override with
  | .roll => r.roll
  | .on => .down
  | .off => .up

/-! ### Per-key and per-pedal order (R94, R95) -/

/-- What an entry's order binds: one physical key or one pedal. -/
inductive Lane where
  | key (k : Nat)
  | pedal (pd : Pedal)
  deriving DecidableEq, Repr

def Entry.lane (e : Entry) : Lane :=
  match e.body with
  | .strike b => .key b.key
  | .release b => .key b.key
  | .lift pd => .pedal pd
  | .drop pd => .pedal pd

/-- R94: an entry stands before later entries of its lane while it is in the Timeline, but a PEDAL_LIFT counts as
issued when it is handed on. -/
def Entry.holdsLane (e : Entry) : Bool :=
  match e.body with
  | .lift _ => e.state != .released
  | .strike _ | .release _ | .drop _ => true

/-- An entry that waits behind a pending OFF (R100). -/
def Entry.offPending (e : Entry) : Bool :=
  match e.body with
  | .strike b => b.offPending
  | .release _ | .lift _ | .drop _ => false

/-- The last issued kind of a key with its position (R95).  A key whose OFF is still to be recorded counts as released
with issue position none (assumption log 11). -/
def KeyRec.lastIssue (r : KeyRec) : LastIssued × Option Nat :=
  if r.offDue then (.release, none) else (r.last, r.lastPos)

/-- R95: the release position of an entry that becomes head. -/
def headPosition (s : State) (e : Entry) : Nat :=
  let v := s.clock.vCmd16
  match e.body with
  | .strike b =>
    match (keyRec s b.key).lastIssue with
    | (.release, some pos) => max e.due (pos + rgapDistance (liveVoicing s b.key).rgap v)
    | (.release, none) | (.strike, _) | (.none, _) => e.due
  | .release b =>
    match (keyRec s b.key).lastIssue with
    | (.strike, some pos) => max e.due (pos + pulseDistance (keyRec s b.key).lastPw10 v)
    | (.strike, none) | (.release, _) | (.none, _) => e.due
  | .lift _ | .drop _ => e.due

/-- Entries that have become head of their lane turn WAITING, with their release position computed then (R94, R95);
`seen` lists the lanes already held by an earlier entry. -/
def refreshFrom (s : State) : List Lane → List Entry → List Entry
  | _, [] => []
  | seen, e :: t =>
    let e' :=
      if e.state = .blocked ∧ e.offPending = false ∧ e.lane ∉ seen then
        { e with state := .waiting, releasePos := headPosition s e }
      else e
    e' :: refreshFrom s (if e'.holdsLane then e'.lane :: seen else seen) t

def refreshHeads (s : State) : State := setTimeline (refreshFrom s []) s

/-- R95: whether the countdown that the pairing of a head with its key's last issue requires has run out. -/
def gapRunOut (s : State) (e : Entry) : Bool :=
  match e.body with
  | .strike b =>
    let r := keyRec s b.key
    match r.lastIssue.1 with
    | .release => r.countdown == 0 && !r.offDue
    | .strike | .none => true
  | .release b =>
    let r := keyRec s b.key
    match r.lastIssue.1 with
    | .strike => r.countdown == 0
    | .release | .none => true
  | .lift _ | .drop _ => true

/-- The roll states in which entries are handed on and strikes granted (R96, R113). -/
def RollState.hands : RollState → Bool
  | .playing | .starved | .stepping => true
  | .empty | .leader | .ready | .paused | .seeking | .preroll | .ended => false

/-- R96. -/
def eligible (s : State) (e : Entry) : Bool :=
  e.state == .waiting && s.clock.state.hands && decide (e.releasePos ≤ s.clock.p) && gapRunOut s e

/-- Timeline order (R94): by due position, equal ones in creation order. -/
def insertDue (e : Entry) : List Entry → List Entry
  | [] => [e]
  | x :: t => if e.due < x.due then e :: x :: t else x :: insertDue e t

def dueOrder (es : List Entry) : List Entry := es.foldl (fun acc e => insertDue e acc) []

/-- An entry of the Timeline changed in place. -/
def setEntry (seq : Nat) (f : Entry → Entry) (s : State) : State :=
  setTimeline (List.map fun e => if e.seq = seq then f e else e) s

/-- An entry leaves the Timeline. -/
def dropEntry (seq : Nat) (s : State) : State := setTimeline (List.filter fun e => e.seq != seq) s

/-- R96, R100, R130: one eligible entry is handed on.  A strike on a key that another track sounds becomes a restrike
instead; a lift sets its pedal's roll state and is cancelled unless it finds its pedal wanted down and at rest. -/
def handOnEntry (s : State) (e : Entry) : State :=
  match e.body with
  | .strike b =>
    if b.restrike = false ∧ 1 ≤ (keyRec s b.key).owners then
      let s := setEntry e.seq (fun x => { x with
        state := .blocked, body := .strike { b with restrike := true, offPending := true } }) s
      { s with sched := { s.sched with restrikes := bump16 s.sched.restrikes } }
    else setEntry e.seq (fun x => { x with state := .released }) s
  | .release _ | .drop _ => setEntry e.seq (fun x => { x with state := .released }) s
  | .lift pd =>
    let s := setPedal pd (fun r => { r with roll := .down }) s
    let r := s.pedals.get pd
    if r.target = .down ∧ r.state = .rest then
      setPedal pd (fun r => { r with state := .waitingSlot }) (setEntry e.seq (fun x => { x with state := .released }) s)
    else dropEntry e.seq s

/-- The entries eligible at this instant are handed on in Timeline order (R96). -/
def handOnOnce (s : State) : State :=
  let s := refreshHeads s
  ((dueOrder s.sched.timeline).filter (eligible s)).foldl handOnEntry s

/-- Everything eligible is handed on.  The second round takes the drops that become head as their lifts are handed on
(R94); a drop stays until a frame build, so there is no third. -/
def handOnAll (s : State) : State := refreshHeads (handOnOnce (handOnOnce s))

/-- What every event that may change the state, the rate, the position or the Timeline ends with: the entries it made
eligible are handed on (R96) and the directive is derived again (R21). -/
def settle (s : State) : State := rederive (handOnAll s)

/-! ### The Sounding Table (R85) -/

/-- The creation sequence number of the first strike of a track in the Timeline. -/
def nextStrike (tl : List Entry) (n : Nat) : Option Nat :=
  (tl.find? fun e =>
    match e.body with
    | .strike b => b.track == n
    | .release _ | .lift _ | .drop _ => false).map (·.seq)

/-- Whether the release paired with a strike is in the Timeline. -/
def hasRelease (tl : List Entry) (strike : Nat) : Bool :=
  tl.any fun e =>
    match e.body with
    | .release b => b.paired == strike
    | .strike _ | .lift _ | .drop _ => false

/-- R85: a strike is created for a track. -/
def TrackRec.strikeCreated (seq key : Nat) (r : TrackRec) : TrackRec :=
  if r.state = .silent then
    { state := .pending, releaseQueued := false, key := key, inForce := some seq, openNote := some seq, queued := 0 }
  else { r with openNote := some seq, queued := r.queued + 1 }

/-- R85: the release paired with strike `paired` is created for a track. -/
def TrackRec.releaseCreated (paired : Nat) (r : TrackRec) : TrackRec :=
  let r' := { r with openNote := none }
  if r.inForce = some paired then
    match r.state with
    | .pending => { r' with releaseQueued := true }
    | .sounding => { r' with state := .releasing }
    | .silent | .releasing | .interrupted => r'
  else r'

/-- R85: the strike of the note in force issues. -/
def TrackRec.strikeIssued (r : TrackRec) : TrackRec :=
  { r with state := if r.releaseQueued then .releasing else .sounding }

/-- R85: the note in force finishes; the next strike of the track becomes the note in force, or the track is SILENT. -/
def noteFinishes (n : Nat) (s : State) : State :=
  match nextStrike s.sched.timeline n with
  | none => setTrack n (fun _ => TrackRec.silent) s
  | some q =>
    setTrack n (fun r =>
      { r with
        state := .pending
        inForce := some q
        releaseQueued := hasRelease s.sched.timeline q
        queued := r.queued - 1 }) s

/-! ### Creating events (R87 to R92) -/

/-- R87: the physical key of a strike created for a track. -/
def chooseKey (s : State) (n : Nat) : Nat :=
  if (track s n).state = .silent then foldKey n s.sched.transposition else (track s n).key

/-- A new entry at the end of creation order, with the next creation sequence number (R84, R93).  R93 has the Timeline
never hold more than 256 entries; where the events of one consumption exceed that, none is lost (assumption log 33). -/
def addEntry (body : EntryBody) (due : Nat) (s : State) : State :=
  { s with
    sched :=
      { s.sched with
        timeline := s.sched.timeline ++ [⟨body, due, due, s.sched.nextSeq, .blocked⟩]
        nextSeq := (s.sched.nextSeq + 1) % 4294967296 } }

/-- R89, steps 1 to 6, with the level of the onset line and whether the strike is caught (R150): a MUTE key creates
nothing (R90), and a caught strike is due at `position` with no flight advance. -/
def createStrike (n : Nat) (level : Nat) (caught : Option Nat) (line : Nat) (s : State) : State :=
  let k := chooseKey s n
  let v := liveVoicing s k
  if v.mute then s
  else
    let l := trimmedLevel s.expr (trackHalf s.expr n) level
    let due := match caught with
      | some position => position
      | none => strikeDue line (flightTime v l) s.clock.vCmd16
    let seq := s.sched.nextSeq
    let s := addEntry
      (.strike { track := n, key := k, pw10 := strikePw10 v l, cap10 := capPw10 v, level := l, caught := caught.isSome,
                 restrike := false, offPending := false, held := 0 }) due s
    refreshHeads (setTrack n (TrackRec.strikeCreated seq k) s)

/-- The levels of the line with a given number in the level history (R56).  The manual shows that the entry is always
present for an onset line; the levels of the last line read stand in where no run comes (assumption log 23). -/
def levelsOf (s : State) (line : Nat) : PerHalf Nat :=
  match s.reading.history.find? fun e => e.line == line with
  | some e => e.levels
  | none => s.expr.level

/-- R89: the onset of a roll note track. -/
def noteOnset (n line : Nat) (s : State) : State :=
  createStrike n ((levelsOf s line).get (trackHalf s.expr n)) none line s

/-- R91: the close of a roll note track. -/
def noteClose (n line : Nat) (s : State) : State :=
  let r := track s n
  match r.openNote with
  | none => s
  | some q =>
    let void := r.state == .interrupted && r.inForce == some q
    let due := leadDue line (liveVoicing s r.key).dampLead s.clock.vCmd16
    let s := addEntry (.release ⟨n, r.key, q, void⟩) due s
    refreshHeads (setTrack n (TrackRec.releaseCreated q) s)

/-- The live pedal entry of a pedal. -/
def livePedal (s : State) (pd : Pedal) : PedalEntry := s.tables.live.pedals.get pd

/-- R92: the onset and the close of a pedal track. -/
def pedalOnset (pd : Pedal) (line : Nat) (s : State) : State :=
  refreshHeads (addEntry (.lift pd) (leadDue line (livePedal s pd).liftLead s.clock.vCmd16) s)

def pedalClose (pd : Pedal) (line : Nat) (s : State) : State :=
  refreshHeads (addEntry (.drop pd) (leadDue line (livePedal s pd).dropLead s.clock.vCmd16) s)

/-! ### Interruption and clearing (R101 to R104) -/

/-- R101: a track in SOUNDING or RELEASING is marked INTERRUPTED. -/
def markInterrupted (n : Nat) (s : State) : State :=
  let r := track s n
  if r.sounds then
    let s := setTrack n (fun r => { r with state := .interrupted }) s
    let s := setTimeline (List.map fun e =>
      match e.body with
      | .release b => if b.track = n ∧ r.inForce = some b.paired then { e with body := .release { b with void := true } } else e
      | .strike _ | .lift _ | .drop _ => e) s
    setKey r.key (fun k =>
      { k with owners := k.owners - 1, offDue := k.offDue || decide (k.owners ≤ 1) }) s
  else s

/-- R102: every track in SOUNDING or RELEASING is marked. -/
def markAll (s : State) : State := (List.range 88).foldl (fun t n => markInterrupted n t) s

/-- The waiting test pulse is withdrawn (R103, R184). -/
def withdrawTest (s : State) : State :=
  match s.test.phase with
  | .waiting => { s with test := { s.test with phase := .none } }
  | .none | .running => s

/-- R184: the roll state becomes other than EMPTY or PAUSED.  A waiting pulse is withdrawn; a running one loses its
hold on the channel, which goes OFF at stage 4 of the next build. -/
def endTest (s : State) : State := { s with test := { s.test with phase := .none } }

/-- R103 and R104, what clearing does to the key records: every owner count becomes 0, and a key that had an owner has
its OFF recorded at the next frame build. -/
def KeyRec.cleared (r : KeyRec) : KeyRec := { r with owners := 0, offDue := r.offDue || decide (1 ≤ r.owners) }

/-- What R103 and R104 share: the Timeline and the waiting set are emptied, every track is SILENT, every owner count 0
and the creation sequence restarts. -/
def emptyTimeline (s : State) : State :=
  withdrawTest
    { s with
      sched :=
        { s.sched with
          timeline := []
          nextSeq := 0
          tracks := vtab 88 fun _ => TrackRec.silent
          keys := vmap KeyRec.cleared s.sched.keys } }

/-- R103: clearing at LOAD, STOP, SEEK, a discontinuity and SOFT RESET also sets the issue positions to none. -/
def clearSchedule (s : State) : State :=
  let s := emptyTimeline s
  { s with sched := { s.sched with keys := vmap (fun r => { r with lastPos := none }) s.sched.keys } }

end Sys2Proof.Machine
end

