-- ==== Sys2Proof/Machine/Pedals.lean ====
section
/-! DEFINITION. The Pedal Unit's shared operations (chapter 7). -/

namespace Sys2Proof.Machine

/-- A lift that a pedal waits on leaves the waiting set, a roll lift the Timeline as well; an own request becomes none
(R131, R134, R135). -/
def cancelLift (pd : Pedal) (s : State) : State :=
  let s := setTimeline (List.filter fun e =>
    match e.body with
    | .lift q => !(q == pd && e.state == .released)
    | .strike _ | .release _ | .drop _ => true) s
  setPedal pd (fun r => { r with ownRequest := false }) s

/-- The pedal goes to REST with duty 0 and the lift it waits on is cancelled.  The slot of a kick cut so frees at stage
3 of the next build, which finds the channel out of KICK (R134, R135). -/
def restPedal (pd : Pedal) (s : State) : State :=
  setPedal pd (fun r => { r with state := .rest, duty := 0, countdown := 0, stepped := false }) (cancelLift pd s)

/-- R135: both pedals go to REST.  The frame of the next build carries OFF for each, unless a lift of it that comes to wait
before that build is granted there (DESIGN CHOICE, assumption log 35). -/
def restPedals (s : State) : State := restPedal .shift (restPedal .damper s)

/-- R129: both roll states become UP. -/
def rollStatesUp (s : State) : State := { s with pedals := s.pedals.map fun r => { r with roll := .up } }

/-- R134, R135, R136: a pedal moves toward its target. -/
def moveToTarget (pd : Pedal) (s : State) : State :=
  let r := s.pedals.get pd
  match r.target, r.state with
  | .down, .rest => setPedal pd (fun r => { r with state := .waitingSlot, ownRequest := true }) s
  | .down, .waitingSlot | .down, .kick | .down, .ease | .down, .hold => s
  | .up, .rest => s
  | .up, .waitingSlot | .up, .kick | .up, .ease | .up, .hold => restPedal pd s

/-- R133, at the end of the kick time: the duty becomes the kick duty less the ease step, in EASE, or the pedal enters
HOLD at the hold duty when that value is at or below it. -/
def PedalRec.kickEnds (r : PedalRec) : PedalRec :=
  if r.figures.kickDuty ≤ r.figures.holdDuty + r.figures.easeStep then
    { r with state := .hold, duty := r.figures.holdDuty, countdown := 0 }
  else { r with state := .ease, duty := r.figures.kickDuty - r.figures.easeStep, countdown := r.figures.easeInterval }

/-- R133, at the end of an ease interval: the duty falls by one ease step, or the pedal enters HOLD. -/
def PedalRec.easeFalls (r : PedalRec) : PedalRec :=
  if r.duty ≤ r.figures.holdDuty + r.figures.easeStep then
    { r with state := .hold, duty := r.figures.holdDuty, countdown := 0 }
  else { r with duty := r.duty - r.figures.easeStep, countdown := r.figures.easeInterval }

/-- R132, R133: a pedal's stage 3 of a frame build. -/
def PedalRec.stage3 (r : PedalRec) : PedalRec :=
  if r.stepped then { r with stepped := false }
  else
    match r.state with
    | .kick => if r.countdown ≤ 1 then r.kickEnds else { r with countdown := r.countdown - 1 }
    | .ease => if r.countdown ≤ 1 then r.easeFalls else { r with countdown := r.countdown - 1 }
    | .rest | .waitingSlot | .hold => r

/-- R132: the pedal takes its profile figures and enters KICK. -/
def PedalRec.granted (f : LiftFigures) (r : PedalRec) : PedalRec :=
  { r with state := .kick, figures := f, duty := f.kickDuty, countdown := f.kickTime, ownRequest := false, stepped := false }

end Sys2Proof.Machine
end

