-- ==== Sys2Proof/Machine/RollClock.lean ====
section
/-! DEFINITION. The Roll Clock's shared operations: what several events and requests of chapters 1 and 8 do to the whole
part (entering PLAYING, starvation, end of roll, pause, stop, the taking of a seek), and the movement of P. -/

namespace Sys2Proof.Machine

/-- P takes a position by an event other than the advance. -/
def setP (x : Nat) (s : State) : State :=
  { s with clock := { s.clock with p := x }, timing := { s.timing with part := 0 } }

def setRoll (st : RollState) (s : State) : State := { s with clock := { s.clock with state := st } }

def setC (c : Int) (s : State) : State := { s with clock := { s.clock with c := c } }

/-- PLAYING is entered: P advances at the rate in force (R8). -/
def beginPlaying (s : State) : State :=
  { s with
    clock := { s.clock with state := .playing }
    timing := { s.timing with rate := playRate s.clock } }

/-- R13: P is held at N_in·256, c becomes 0, the state STARVED; counted and attended. -/
def starve (s : State) : State :=
  let s := setP (s.clock.nIn * 256) s
  raise .starved
    { s with clock := { s.clock with state := .starved, c := 0, starvations := bump16 s.clock.starvations } }

/-- R18, R104, R129, R135: the roll ends at line `e`. -/
def finishRoll (e : Nat) (s : State) : State :=
  let s := rollStatesUp (restPedals (emptyTimeline s))
  raise .ended (setRoll .ended (setP (e * 256) s))

/-- P stands at E·256 or at N_in·256 (R13, R18). -/
def atBoundary (s : State) : Bool :=
  decide (s.clock.nIn * 256 ≤ s.clock.p) || s.clock.endLine.any fun e => decide (e * 256 ≤ s.clock.p)

/-- R7, R13, R18: what follows in the same event when the state is PLAYING and P stands at E·256 or at N_in·256. -/
def meetBoundary (s : State) : State :=
  if s.clock.state = .playing then
    match s.clock.endLine with
    | some e =>
      if e * 256 ≤ s.clock.p then finishRoll e s
      else if s.clock.nIn * 256 ≤ s.clock.p then starve s
      else s
    | none => if s.clock.nIn * 256 ≤ s.clock.p then starve s else s
  else s

/-- R9, R102, R135: P freezes, the sounding tracks are interrupted, the pedals rest.  The key channels go OFF at the
next frame build, their owner counts being 0 (R115). -/
def pauseRoll (s : State) : State := setRoll .paused (restPedals (markAll s))

/-- R10 with R40, R103, R129, R135. -/
def stopRoll (s : State) : State :=
  let s := rollStatesUp (restPedals (clearSchedule s))
  let s :=
    if s.intake.attached then
      let s := setOwned 0 (flushAll s.intake.q s.intake.index s)
      { s with intake := { s.intake with index := 0, endStop := false, state := .running } }
    else s
  let s := setP 0 s
  { s with
    clock :=
      { s.clock with
        state := .empty
        nIn := 0
        c := 0
        lineHeld := false
        signatureTaken := false
        autoPlay := false
        endLine := none } }

/-- R145: a seek to a target is taken, with the auto-play flag of the request. -/
def takeSeek (target : Nat) (auto : Bool) (s : State) : State :=
  let t := max 64 target
  let keep := match s.clock.state with
    | .playing | .starved => true
    | .seeking | .preroll => s.clock.autoPlay
    | .empty | .leader | .ready | .paused | .stepping | .ended => false
  let s := endTest (restPedals (clearSchedule s))
  let s := { s with
    clock := { s.clock with state := .seeking, autoPlay := keep || auto, endLine := none }
    seek := { s.seek with target := t, start := max 64 (t - s.seek.prime) } }
  let s := if s.intake.attached then flushRun s.intake.q s else s
  { s with intake := { s.intake with endStop := false } }

/-- The roll states in which SEEK is refused (R145). -/
def RollState.refusesSeek : RollState → Bool
  | .empty | .leader => true
  | .ready | .playing | .starved | .paused | .seeking | .preroll | .stepping | .ended => false

/-! ### Cues and the movement of P (R8, R140 to R142) -/

def cueAt (s : State) (i : Nat) : Cue := vget s.cues.live i (Cue.ofDef CueDef.empty 0)

/-- A cue that fires when it is crossed (R140). -/
def Cue.fires (q : Cue) : Bool := q.armed && q.action != .none

/-- Insertion by line, equal lines in ascending index (R141). -/
def insertCue (lineOf : Nat → Nat) (i : Nat) : List Nat → List Nat
  | [] => [i]
  | j :: t => if lineOf i < lineOf j then i :: j :: t else j :: insertCue lineOf i t

/-- The armed cues that a movement of P from below to a position crosses, in the order they fire (R140, R141). -/
def crossings (s : State) (p0 p1 : Nat) : List Nat :=
  ((List.range 32).filter fun i =>
      let q := cueAt s i
      q.fires && decide (p0 < q.line * 256) && decide (q.line * 256 ≤ p1)).foldl
    (fun acc i => insertCue (fun j => (cueAt s j).line) i acc) []

/-- P moves up to `x` by the advance (R8); the cues it crosses fire by `fireCues`. -/
def advanceTo (x : Nat) (s : State) : State :=
  let s := setP x s
  { s with timing := { s.timing with rate := playRate s.clock } }

/-- The positions at which the advance of P meets something: a release position of a WAITING entry, the line of an
armed cue, N_in·256 and E·256 (R8). -/
def stops (s : State) : List Nat :=
  (s.sched.timeline.filter fun e => e.state == .waiting).map (·.releasePos)
    ++ (((List.range 32).filter fun i => (cueAt s i).fires).map fun i => (cueAt s i).line * 256)
    ++ [s.clock.nIn * 256]
    ++ s.clock.endLine.toList.map (· * 256)

/-- Whether nothing that P meets lies strictly between its position and `x`. -/
def clearTo (s : State) (x : Nat) : Bool := (stops s).all fun y => !(decide (s.clock.p < y) && decide (y < x))

/-- R138, R142: the counter field of a staged cue entry, two bytes at offset 10. -/
def cueCounterAddr (i : Nat) : Nat := tableBase + cueOffset + 12 * i + 10

def mirrorHits (i hits : Nat) (s : State) : State := writeBytes (cueCounterAddr i) (natBytes 2 hits) s

/-- R142: cue `i` fires.  A STOP cue pauses from PLAYING, STARVED and STEPPING, a LOOP cue seeks where SEEK is taken;
elsewhere both act as NOTICE. -/
def fireCue (i : Nat) (s : State) : State :=
  let q := cueAt s i
  let hits := bump16 q.hits
  let s := { s with
    cues :=
      { s.cues with
        last := some i
        live := vmodify s.cues.live i fun q => { q with hits := hits, armed := q.armed && !q.once } } }
  let s := raise .cue (mirrorHits i hits s)
  match q.action with
  | .none | .notice => s
  | .stop => if s.clock.state.hands then pauseRoll s else s
  | .loop => if s.clock.state.refusesSeek then s else takeSeek q.target true s

/-- A STOP or LOOP cue ends the movement that crosses it (R141). -/
def CueAction.endsMovement : CueAction → Bool
  | .stop | .loop => true
  | .none | .notice => false

/-- R141: the cues crossed at one position fire in their order, up to the first STOP or LOOP (log 17). -/
def fireCues : List Nat → State → State
  | [], s => s
  | i :: rest, s => if (cueAt s i).action.endsMovement then fireCue i s else fireCues rest (fireCue i s)

/-- R16, R141: a STEP carries P through the cues it crosses, in their order, and on to `x`.  Entries whose release
position is reached on the way are handed on at each cue's line and at the end.  A STOP or LOOP ends the movement. -/
def stepThrough (x : Nat) : List Nat → State → State
  | [], s => handOnAll (setP x s)
  | i :: rest, s =>
    let ends := (cueAt s i).action.endsMovement
    let s := fireCue i (handOnAll (setP ((cueAt s i).line * 256) s))
    if ends then s else stepThrough x rest s

end Sys2Proof.Machine
end

