-- ==== Sys2Proof/Machine/Reading.lean ====
section
/-! DEFINITION. Reading a line: track filters, step-code debouncers, Stage 1 of the expression arithmetic, the level
history, the leader signature, and the start and completion of a preroll (chapters 3, 4 and 8). -/

namespace Sys2Proof.Machine

/-! ### Track filters (R48 to R52) -/

/-- R48: a filter takes its sample on a line. -/
def Filter.sample (onRun offRun line : Nat) (opening : Bool) : Filter → Filter × FilterEvent
  | .closed =>
    if opening then (if onRun ≤ 1 then (.opened, .onset line) else (.opening 1 line, .none)) else (.closed, .none)
  | .opening count onset =>
    if opening then (if count + 1 < onRun then (.opening (count + 1) onset, .none) else (.opened, .onset onset))
    else (.closed, .speck)
  | .opened =>
    if opening then (.opened, .none) else (if offRun ≤ 1 then (.closed, .close line) else (.closing 1 line, .none))
  | .closing count close =>
    if opening then (.opened, .bridged)
    else (if count + 1 < offRun then (.closing (count + 1) close, .none) else (.closed, .close close))

/-- R52: the settled state of a track. -/
def Filter.settled : Filter → Bool
  | .opened | .closing _ _ => true
  | .closed | .opening _ _ => false

def FilterEvent.isSpeck : FilterEvent → Bool
  | .speck => true
  | .none | .onset _ | .close _ | .bridged => false

/-- What every filter makes of a line, by track (R46, R47 step 1). -/
def sampleAll (r : Reading) (ln : Line) : List (Filter × FilterEvent) :=
  r.filters.toList.mapIdx fun i f => f.sample r.onRun r.offRun ln.number (ln.image.getLsbD i)

/-- R47, step 1, with the specks counted (R51). -/
def takeSamples (ln : Line) (s : State) : State :=
  let out := sampleAll s.reading ln
  { s with
    reading :=
      { s.reading with
        filters := vmapIdx (fun i f => (f.sample s.reading.onRun s.reading.offRun ln.number (ln.image.getLsbD i)).1) s.reading.filters
        specks := add16 s.reading.specks (out.countP fun x => x.2.isSpeck) } }

/-- The settled state of track `i`. -/
def settledTrack (s : State) (i : Nat) : Bool := (vget s.reading.filters i .closed).settled

def weigh (open? : Bool) (w : Nat) : Nat := if open? then w else 0

/-- R52: the raw step code of a half. -/
def rawCode (s : State) : Half → Nat
  | .bass => weigh (settledTrack s 0) 1 + weigh (settledTrack s 1) 2 + weigh (settledTrack s 2) 4
  | .treble => weigh (settledTrack s 97) 4 + weigh (settledTrack s 98) 2 + weigh (settledTrack s 99) 1

/-- R53: a debouncer takes the raw code `r` against the code in force `b`; the result is the debouncer and the code in
force for the line. -/
def Debouncer.take (stable r b : Nat) (d : Debouncer) : Debouncer × Nat :=
  if r = b then (Debouncer.clear, b)
  else
    let count := if d.candidate = some r then d.count + 1 else 1
    if stable ≤ count then (Debouncer.clear, r) else (⟨some r, count⟩, b)

/-- The SWELL and QUICK tracks of a half (R68). -/
def swellTrack : Half → Nat
  | .bass => 3
  | .treble => 96

def quickTrack : Half → Nat
  | .bass => 4
  | .treble => 95

/-- R70, steps 2 and 3, for one half: the new swell offset and level under the code in force. -/
def stage1 (s : State) (h : Half) (b : Nat) : Nat × Nat :=
  let swell := settledTrack s (swellTrack h)
  let q := rampStep (rampRate s.expr swell (settledTrack s (quickTrack h))) s.clock.vCmd16
  let w := nextOffset (s.expr.w256.get h) q s.expr.wMax swell
  (w, halfLevel (vget s.expr.steps b 0) w)

/-- R47, steps 2 to 4: the debouncers, the Expression Unit and the level history take the line. -/
def shadeLine (number : Nat) (s : State) : State :=
  let db := s.reading.debouncers.bass.take s.reading.stepStable (rawCode s .bass) s.expr.b.bass
  let dt := s.reading.debouncers.treble.take s.reading.stepStable (rawCode s .treble) s.expr.b.treble
  let sb := stage1 s .bass db.2
  let st := stage1 s .treble dt.2
  let levels : PerHalf Nat := ⟨sb.2, st.2⟩
  let kept := if s.reading.history.length < 8 then s.reading.history else s.reading.history.drop 1
  { s with
    reading := { s.reading with debouncers := ⟨db.1, dt.1⟩, history := kept ++ [⟨number, levels⟩] }
    expr := { s.expr with b := ⟨db.2, dt.2⟩, w256 := ⟨sb.1, st.1⟩, level := levels } }

/-- R54: one onset or close of tracks 5, 6..93 and 94 reaches the Scheduler. -/
def passEvent (tr : Nat) (ev : FilterEvent) (s : State) : State :=
  match ev with
  | .onset line =>
    if tr = 5 then pedalOnset .damper line s
    else if tr = 94 then pedalOnset .shift line s
    else if 6 ≤ tr ∧ tr ≤ 93 then noteOnset (tr - 6) line s
    else s
  | .close line =>
    if tr = 5 then pedalClose .damper line s
    else if tr = 94 then pedalClose .shift line s
    else if 6 ≤ tr ∧ tr ≤ 93 then noteClose (tr - 6) line s
    else s
  | .none | .speck | .bridged => s

/-- R54: the onsets and closes of a line in ascending track number. -/
def passEvents (events : List (Nat × FilterEvent)) (s : State) : State :=
  events.foldl (fun t e => passEvent e.1 e.2 t) s

/-- What the Intake Unit and the Roll Clock keep of a line read (R6, R23, R29). -/
def noteLine (ln : Line) (s : State) : State :=
  { s with
    intake := { s.intake with lastImage := ln.image, linesConsumed := bump32 s.intake.linesConsumed }
    clock := { s.clock with nIn := ln.number, lineHeld := true } }

/-- R47: a line read in READY, PLAYING, STARVED or STEPPING, and one past line 63 in the lookup's own event (R60). -/
def readPlayed (ln : Line) (s : State) : State :=
  let events := (sampleAll s.reading ln).mapIdx fun i x => (i, x.2)
  noteLine ln (passEvents events (shadeLine ln.number (takeSamples ln s)))

/-- R148: a line read in PREROLL reaches no Scheduler, and P follows N_in. -/
def readSilently (ln : Line) (s : State) : State :=
  setP (ln.number * 256) (noteLine ln (shadeLine ln.number (takeSamples ln s)))

/-! ### Clearing (R60, R62, R63, R64, R67) -/

/-- The filters return to CLOSED, the debouncers are cleared and the level history is emptied. -/
def clearReading (s : State) : State :=
  { s with
    reading :=
      { s.reading with
        filters := vtab 100 fun _ => .closed
        debouncers := ⟨Debouncer.clear, Debouncer.clear⟩
        history := [] } }

/-- R67: both halves' b and W256 become 0 and L becomes S[0] of the latched table. -/
def clearExpression (s : State) : State :=
  let l0 := vget s.expr.steps 0 0
  { s with expr := { s.expr with b := ⟨0, 0⟩, w256 := ⟨0, 0⟩, level := ⟨l0, l0⟩ } }

/-! ### The leader (R5, R57 to R61) -/

/-- R58, R59: a leader line feeds the signature register; a line not SCANNED clears the valid flag. -/
def feedSignature (ln : Line) (s : State) : State :=
  { s with
    reading :=
      { s.reading with
        signature := crcBytes s.reading.signature (imageBytes (ln.image &&& s.reading.leaderMask))
        signatureValid := s.reading.signatureValid && ln.origin == .scanned } }

/-- R60: the profile the lookup selects: the lowest valid one of 1 to 7 whose signature equals the register, when the
signature is valid; 0 otherwise. -/
def lookupProfile (s : State) : Nat :=
  if s.reading.signatureValid then
    ((List.range 8).find? fun i =>
      let pr := liveProfile s i
      decide (1 ≤ i) && pr.valid != 0 && pr.signature == s.reading.signature).getD 0
  else 0

/-- R5, R60: after line 63 the profile is applied and the leader ends for the Reading Unit. -/
def endLeader (s : State) : State :=
  let s := clearReading (applyProfile (lookupProfile s) s)
  { s with clock := { s.clock with signatureTaken := true } }

/-- R47, R57, R58: a line read in LEADER before the signature has been taken; the lines 0 to 63 feed the register. -/
def readLeader (ln : Line) (s : State) : State :=
  let s := noteLine ln (takeSamples ln s)
  if ln.number ≤ 63 then
    let s := feedSignature ln s
    if ln.number = 63 then endLeader s else s
  else s

/-- R5: the hand-over to READY, with P at the first line of the event (that of the lookup excepted, assumption log 13). -/
def handOver (number : Nat) (s : State) : State := setRoll .ready (setP (number * 256) s)

/-! ### Preroll (R136, R147 to R151) -/

/-- R136: the roll state of a pedal as its track stands settled. -/
def rollFromTrack (pd : Pedal) (tr : Nat) (s : State) : State :=
  setPedal pd (fun r => { r with roll := if settledTrack s tr then .down else .up }) s

/-- R149, step 3, for one pedal: a lift due at the target where the roll wants the pedal down, the Pedal Unit's own
request where the override alone does (R136). -/
def liftAtTarget (pd : Pedal) (t : Nat) (s : State) : State :=
  if (s.pedals.get pd).roll = .down then refreshHeads (addEntry (.lift pd) (t * 256) s)
  else if (s.pedals.get pd).override = .on then moveToTarget pd s
  else s

/-- R150, R83: the level a caught note takes, that of the newest entry of the level history. -/
def newestLevels (s : State) : PerHalf Nat :=
  match s.reading.history.getLast? with
  | some e => e.levels
  | none => s.expr.level

/-- R149, step 3, for one note track: a caught strike where the track stands settled open (R150). -/
def catchNote (t : Nat) (s : State) (n : Nat) : State :=
  if settledTrack s (6 + n) then createStrike n ((newestLevels s).get (trackHalf s.expr n)) (some (t * 256)) t s else s

/-- R149, step 3: the events of the target in track order. -/
def catchTarget (t : Nat) (s : State) : State :=
  liftAtTarget .shift t ((List.range 88).foldl (catchNote t) (liftAtTarget .damper t s))

/-- R149, steps 4 and 5: the resulting state, and SEEK attention. -/
def leavePreroll (s : State) : State :=
  let s := if s.clock.autoPlay then beginPlaying s else setRoll .ready s
  raise .seek { s with clock := { s.clock with autoPlay := false } }

/-- R149, steps 1 to 5: the seek completes at position T·256, before line T is read. -/
def completeSeek (s : State) : State :=
  let t := s.seek.target
  let s := setC 0 (setP (t * 256) s)
  leavePreroll (catchTarget t (rollFromTrack .shift 94 (rollFromTrack .damper 5 s)))

/-- R151: an empty preroll completes at once; a first line beyond the target is an overshoot. -/
def completeEmpty (number : Nat) (s : State) : State :=
  let s :=
    if s.seek.target < number then
      { s with seek := { s.seek with target := number, shorts := bump16 s.seek.shorts } }
    else s
  completeSeek s

/-- R147: the preroll starts, or restarts after a discontinuity (R148), before line `number` is read. -/
def startPreroll (number : Nat) (s : State) : State :=
  let s := clearExpression (clearReading (setRoll .preroll s))
  if s.seek.target ≤ number then completeEmpty number s else s

/-- R47: a line takes its turn in the roll state in force.  The leader ends for the Reading Unit with line 63 (R60): a line
after it in the same event is read as in READY, while the Roll Clock hands over at the next event (R5, assumption log 13). -/
def readLine (s : State) (ln : Line) : State :=
  match s.clock.state with
  | .leader => if s.clock.signatureTaken then readPlayed ln s else readLeader ln s
  | .preroll => if s.seek.target ≤ ln.number then readPlayed ln (completeSeek s) else readSilently ln s
  | .seeking => noteLine ln (takeSamples ln s)
  | .empty | .ready | .playing | .starved | .paused | .stepping | .ended => readPlayed ln s

end Sys2Proof.Machine
end

