-- ==== Sys2Proof/Machine/Consume.lean ====
section
/-! DEFINITION. The consumption event (chapter 2): the stall conditions, the check and the continuity test, the damage
policies, the break, and the Roll Clock's report. -/

namespace Sys2Proof.Machine

/-! ### Examining (R27, R28, R34) -/

/-- R34: the expected line. -/
def expectedLine (s : State) : Nat := if s.clock.lineHeld then s.clock.nIn + 1 else 0

/-- R28: the roll state allows consumption. -/
def RollState.consumes : RollState → Bool
  | .empty | .paused | .ended => false
  | .leader | .ready | .playing | .starved | .seeking | .preroll | .stepping => true

/-- R28: the margin is within its limit. -/
def marginAllows (s : State) : Bool :=
  match s.clock.state with
  | .ready | .playing | .starved => decide (margin s ≤ s.clock.readAhead + 63)
  | .stepping => decide (margin s < 64)
  | .empty | .leader | .paused | .seeking | .preroll | .ended => true

/-- The Timeline is a pool of 256 entries (R93). -/
def timelineSize : Nat := 256

/-- R28: the free entries the slot needs: 180 when it would fill a gap, 90 otherwise. -/
def roomNeeded (s : State) (slot : List Byte) : Nat :=
  let x := expectedLine s
  let n := slotNumber slot
  if slotCheckOk slot ∧ x + 1 ≤ n ∧ n ≤ x + 4 then 180 else 90

/-- R28: an examination of the slot at the consume index finds every condition met. -/
def consumable (s : State) : Bool :=
  s.intake.attached
    && slotOwn (slotControl s s.intake.index)
    && s.clock.state.consumes
    && marginAllows s
    && decide (s.sched.timeline.length + roomNeeded s (slotBytes s s.intake.index) ≤ timelineSize)
    && s.intake.state == .running
    && !s.intake.endStop

/-! ### The end line and the report (R6, R12, R14, R17) -/

/-- R17, R39: a line was read from a slot with END set; its number is the end line. -/
def recordEnd (e : Nat) (s : State) : State :=
  let s := { s with clock := { s.clock with endLine := some e }, intake := { s.intake with endStop := true } }
  match s.clock.state with
  | .leader => finishRoll e s
  | .seeking | .preroll => finishRoll e { s with clock := { s.clock with autoPlay := false } }
  | .empty | .ready | .playing | .starved | .paused | .stepping | .ended => s

/-- R6: the report of a consumption event that read lines, in the roll state it finds: in PLAYING the servo correction
is computed (R12), in STARVED the exit test is made (R14). -/
def takeReport (endRead : Bool) (s : State) : State :=
  match s.clock.state with
  | .playing => setC (servo (margin s) s.clock.readAhead) s
  | .starved =>
    if s.clock.readAhead / 2 ≤ margin s ∨ endRead then
      beginPlaying (setC (servo (margin s) s.clock.readAhead) s)
    else s
  | .empty | .leader | .ready | .paused | .seeking | .preroll | .stepping | .ended => s

/-- R5: the first event that reads a line after the signature has been taken hands over to READY before it reads. -/
def handOverFirst (lines : List Line) (s : State) : State :=
  match lines with
  | [] => s
  | ln :: _ => if s.clock.state = .leader ∧ s.clock.signatureTaken then handOver ln.number s else s

/-- A line after the first of an event.  Where a seek has completed into PLAYING at the line before, P stands at N_in·256
and starvation begins before this line is read (R149). -/
def readNext (s : State) (ln : Line) : State :=
  readLine (if s.clock.state = .playing ∧ s.clock.nIn * 256 ≤ s.clock.p then starve s else s) ln

/-- The lines of an event are read in turn (R29 step 4). -/
def readAll (lines : List Line) (s : State) : State :=
  match lines with
  | [] => s
  | ln :: rest => rest.foldl readNext (readLine s ln)

/-- The lines of an event are read in turn, the end line is recorded where the slot carries END, the report is taken, and
what P meets follows.  An END slot acts in the state its lines leave (assumption log 14). -/
def readLines (lines : List Line) (endFlag : Bool) (s : State) : State :=
  let s := readAll lines (handOverFirst lines s)
  let s := if endFlag then recordEnd s.clock.nIn s else s
  meetBoundary (takeReport endFlag s)

/-! ### The break (R19, R37, R61, R62, R148) -/

/-- R19: the effects of a break common to every state. -/
def breakCommon (n : Nat) (s : State) : State :=
  let s := clearReading (rollStatesUp (restPedals (clearSchedule s)))
  let s := setP (n * 256) s
  raise .discontinuity
    { s with clock := { s.clock with nIn := n, discontinuities := bump16 s.clock.discontinuities } }

/-- R19: the break before line `n` is read, with the state-dependent effect the line is read under. -/
def takeBreak (n : Nat) (s : State) : State :=
  let s := breakCommon n s
  match s.clock.state with
  | .playing | .starved => beginPlaying s
  | .leader => if s.clock.signatureTaken then setRoll .ready s else setRoll .ready (applyProfile 0 s)
  | .preroll => startPreroll n s
  | .empty | .ready | .paused | .seeking | .stepping | .ended => s

/-! ### The slot at the consume index (R29 to R38) -/

def addDamaged (s : State) : State := { s with intake := { s.intake with damaged := bump16 s.intake.damaged } }

/-- R38: a slot taken in SEEKING, by the seek start Y. -/
def takeSeeking (slot : List Byte) (s : State) : State × SlotStatus :=
  let n := slotNumber slot
  let ln : Line := ⟨n, slotImage slot, .scanned⟩
  if slotCheckOk slot = false then (addDamaged s, .skipped)
  else if slotEnd (slot.getD 0 0#8) then (readLines [ln] true s, .consumed)
  else if n < s.seek.start then (s, .skipped)
  else (readLines [ln] false (startPreroll n s), .consumed)

/-- R31, R32: a slot that fails its check, by the damage policy. -/
def takeDamaged (endFlag : Bool) (s : State) : State × SlotStatus :=
  let s := addDamaged s
  match s.intake.policy with
  | .hold => (readLines [⟨expectedLine s, s.intake.lastImage, .held⟩] endFlag s, .damagedHeld)
  | .halt => (raise .damage { s with intake := { s.intake with state := .halted } }, .damagedHalted)

/-- R36: the lines synthesized for a gap, X up to n − 1, each carrying the last image. -/
def filledLines (x n : Nat) (img : BitVec 104) : List Line :=
  (List.range (n - x)).map fun i => ⟨x + i, img, .filled⟩

/-- R34 to R37: a slot that passed its check outside SEEKING. -/
def takeChecked (slot : List Byte) (s : State) : State × SlotStatus :=
  let n := slotNumber slot
  let x := expectedLine s
  let ln : Line := ⟨n, slotImage slot, .scanned⟩
  let endFlag := slotEnd (slot.getD 0 0#8)
  if n < x then ({ s with intake := { s.intake with duplicates := bump16 s.intake.duplicates } }, .duplicate)
  else if n = x then (readLines [ln] endFlag s, .consumed)
  else if n ≤ x + 4 then
    let s := { s with intake := { s.intake with gapsFilled := add16 s.intake.gapsFilled (n - x) } }
    (readLines (filledLines x n s.intake.lastImage ++ [ln]) endFlag s, .gapFilled)
  else (readLines [ln] endFlag (takeBreak n s), .discontinuity)

/-- R29: what the slot at the consume index makes of the state, and the status it earns. -/
def takeSlot (slot : List Byte) (s : State) : State × SlotStatus :=
  match s.clock.state with
  | .seeking => takeSeeking slot s
  | .empty | .leader | .ready | .playing | .starved | .paused | .preroll | .stepping | .ended =>
    if slotCheckOk slot then takeChecked slot s else takeDamaged (slotEnd (slot.getD 0 0#8)) s

/-- R29: the consumption event: the slot is taken whole, then returned, and the consume index moves on. -/
def consume (s : State) : State :=
  let i := s.intake.index
  let out := takeSlot (slotBytes s i) s
  let s := returnSlot out.2 i out.1
  settle { s with intake := { s.intake with index := nextIndex s.intake i } }

end Sys2Proof.Machine
end

