-- ==== Sys2Proof/Machine/TableStore.lean ====
section
/-! DEFINITION. The Table Store's and the Cue Unit's shared operations: making tables live, the settings load, the
settings memory, the mirrored hit counters, and the SOFT RESET of every block (chapters 8, 9 and 10). -/

namespace Sys2Proof.Machine

/-! ### The Cue Unit (R138, R139) -/

/-- A cue table becomes live and every hit counter keeps its value (R139). -/
def cuesLive (defs : Vector CueDef 32) (s : State) : State :=
  { s with cues := { s.cues with live := vmapIdx (fun i q => Cue.ofDef (vget defs i CueDef.empty) q.hits) s.cues.live } }

/-- Every counter field of the staged cue table written with its live counter (R138, R155). -/
def mirrorAll (s : State) : State := (List.range 32).foldl (fun t i => mirrorHits i (cueAt s i).hits t) s

/-- The counter fields of the entries whose live counter is about to become 0 from another value (R138). -/
def mirrorCleared (s : State) : State :=
  (List.range 32).foldl (fun t i => if (cueAt s i).hits = 0 then t else mirrorHits i 0 t) s

/-- R138, R139: every live ARMED takes the applied ARMED, every hit counter becomes 0, the last-cue index none. -/
def rearmCues (s : State) : State :=
  { s with
    cues := { live := vmap (fun q => { q with armed := q.appliedArmed, hits := 0 }) s.cues.live, last := none } }

/-! ### Live tables (R159, R161, R162) -/

/-- R184: a test pulse that waits or runs is marked where a new channel map moves its output or maps it UNUSED. -/
def TestPulse.underMap (was map : Vector Place 90) (r : TestPulse) : TestPulse :=
  { r with
    moved := r.moved || (r.phase != .none && vget map r.output .unused != vget was r.output .unused) }

/-- R159: every live table is replaced in one event by what the bytes of a table area give. -/
def tablesLive (area : List Byte) (s : State) : State :=
  let t := decodeTables area
  cuesLive (decodeCues area)
    { s with tables := { s.tables with live := t }, test := s.test.underMap s.tables.live.map t.map }

/-- The built-in table area (R162). -/
def builtInArea : List Byte := encodeTables Tables.builtIn

/-- The bytes the settings line delivers from address 0: the settings memory's, but for those it delivers otherwise. -/
def lineBytes (s : State) (noise : List Host.Cell) : List Byte :=
  (List.range 2440).map fun a =>
    match noise.find? fun c => c.1 == a with
    | some c => c.2
    | none => Mem.read settingsFill s.settings a

/-- R161: whether an image read is accepted. -/
def imageAccepted (complete : Bool) (image : List Byte) : Bool :=
  let area := image.drop 8
  complete && decide (field image 0 2 = imageTag) && decide (field image 2 2 = tableLength)
    && decide (field image 6 2 = areaSum area) && (firstInvalid area).isNone

/-- R1, R44, R65, R144, R153: the latches each block takes at the completion of the settings load. -/
def loadLatches (s : State) : State := latchMask (applyProfile 0 s)

/-- R161: the settings load ends with the bytes read. -/
def finishLoad (complete : Bool) (image : List Byte) (s : State) : State :=
  let accepted := imageAccepted complete image
  let area := if accepted then image.drop 8 else builtInArea
  let generation := if accepted then (field image 4 2 + 1) % 65536 else 1
  let s := tablesLive area (writeBytes tableBase area s)
  let s := { s with tables := { s.tables with generation := generation, link := .idle } }
  let s := if accepted then s else raise .settings s
  let s := mirrorAll (rearmCues s)
  settle (loadLatches s)

/-! ### The settings memory (R164, R166) -/

/-- The first `k` bytes of the store copy written to the settings memory. -/
def writeSettings (k : Nat) (s : State) : State :=
  { s with settings := Mem.writeBlock settingsFill s.settings 0 (s.tables.storeCopy.take k) }

/-- A store ends with a result: the link is IDLE, the copy emptied, STORE attention raised (R164). -/
def endStore (r : StoreResult) (s : State) : State :=
  raise .store { s with tables := { s.tables with link := .idle, storeCopy := [], lastStore := r } }

/-- R166: a store in its writing phase is abandoned.  How much of the copy the settings memory then holds is a free
value; a store already being verified has been written whole. -/
def abandonStore (s : State) : State :=
  match s.tables.link with
  | .storing =>
    let k := Config.storeProgress s.freeDraws % (s.tables.storeCopy.length + 1)
    { writeSettings k s with freeDraws := s.freeDraws + 1 }
  | .idle | .loading | .verifying => s

/-! ### SOFT RESET (R178 and the rule of each block) -/

/-- R2, R144: the Roll Clock and the seek record; the tempo trim and the directive are kept, the directive to be
derived again. -/
def softClock (s : State) : State :=
  { s with
    clock := { RollClock.reset with tau := s.clock.tau, directive := s.clock.directive }
    seek := SeekRecord.reset
    timing := { s.timing with rate := 0, part := 0 } }

/-- R84, R103: the Scheduler; key records as R103 gives. -/
def softScheduler (s : State) : State :=
  let s := clearSchedule s
  { s with sched := { Scheduler.reset with keys := s.sched.keys } }

/-- R167: the port records; the assembler, the mask and the line drive are kept. -/
def softPort (r : PortRec) : PortRec :=
  { r with response := none, window := 0, pending := 0#16, worst := 0 }

/-- R178: every block returned to its SOFT RESET values, both pending sets empty, before the directive is derived. -/
def softBlocks (s : State) : State :=
  let s := softScheduler (softClock (abandonStore s))
  let s := { s with
    intake := Intake.reset
    reading := Reading.reset
    expr := Expression.reset
    drive := { Drive.reset with
      builtMap := s.drive.builtMap
      chains := vmap (fun c => { Chain.reset with wire := c.wire }) s.drive.chains }
    check := FrameCheck.reset
    test := TestPulse.reset
    pedals := ⟨PedalRec.reset, PedalRec.reset⟩
    tables := { s.tables with appliedProfile := 0, link := .idle, storeCopy := [], lastStore := .none }
    ports := s.ports.map softPort }
  loadLatches (mirrorAll (rearmCues s))

end Sys2Proof.Machine
end

