-- ==== Sys2Proof/Machine/Drive.lean ====
section
/-! DEFINITION. The frame build and its six stages (R109), the Strike Arbiter, heat, the drive frames, and the parts of a
build that are rows of their own. -/

namespace Sys2Proof.Machine

/-! ### Outputs, places and chains (R119) -/

/-- Output numbers: keys 0..87, DAMPER 88, SHIFT 89. -/
def pedalOutput : Pedal → Nat
  | .damper => 88
  | .shift => 89

def Holder.output : Holder → Nat
  | .strike k | .suppressed k | .test k => k
  | .kick pd => pedalOutput pd

def place (s : State) (o : Nat) : Place := vget s.tables.live.map o .unused

def chainRec (s : State) (c : Nat) : Chain := vget s.drive.chains c Chain.reset

def setChain (c : Nat) (f : Chain → Chain) (s : State) : State :=
  { s with drive := { s.drive with chains := vmodify s.drive.chains c f } }

def channel (s : State) (k : Nat) : KeyChannel := vget s.drive.channels k KeyChannel.reset

def setChannel (k : Nat) (f : KeyChannel → KeyChannel) (s : State) : State :=
  { s with drive := { s.drive with channels := vmodify s.drive.channels k f } }

/-- Whether an output is wired to a chain. -/
def Place.onChain (c : Nat) : Place → Bool
  | .unused => false
  | .wired d _ => d == c

/-- Whether an output is wired to an ONLINE chain. -/
def outputOnline (s : State) (o : Nat) : Bool :=
  match place s o with
  | .unused => false
  | .wired c _ => (chainRec s c).state == .online

/-! ### Strike slots (R106, R112) -/

def setBusy (f : List BusySlot → List BusySlot) (s : State) : State :=
  { s with drive := { s.drive with busy := f s.drive.busy } }

/-- The slots of a key's pulse, driven or of a test. -/
def Holder.isPulseOf (k : Nat) : Holder → Bool
  | .strike j | .test j => j == k
  | .suppressed _ | .kick _ => false

def Holder.isKickOf (pd : Pedal) : Holder → Bool
  | .kick q => q == pd
  | .strike _ | .suppressed _ | .test _ => false

/-- A key channel goes to OFF, and the slot of a pulse cut so frees at this build (R112, R115).  Where a test pulse has
restarted a strike's pulse, both of the key's slots free with it (assumption log 30). -/
def cutChannel (k : Nat) (s : State) : State :=
  let pulsing := (channel s k).state == .pulse
  let s := setChannel k (fun c => { c with state := .off, test := false }) s
  if pulsing then setBusy (List.filter fun b => !b.holder.isPulseOf k) s else s

def freeKick (pd : Pedal) (s : State) : State := setBusy (List.filter fun b => !b.holder.isKickOf pd) s

/-- A test pulse waiting for or running on output `k` ends (R184). -/
def endTestOn (k : Nat) (s : State) : State :=
  if s.test.phase ≠ .none ∧ s.test.output = k then endTest s else s

/-- Strike slots free under the live drive configuration (R106). -/
def freeSlots (s : State) : Nat := s.tables.live.drive.k - s.drive.busy.length

/-! ### A changed channel map (R120, R137, R184) -/

/-- R120: a key output whose place has changed goes to OFF where it was in PULSE or is UNUSED now. -/
def remapKey (s : State) (k : Nat) : State :=
  let was := vget s.drive.builtMap k .unused
  let pl := place s k
  if was ≠ pl ∧ ((channel s k).state = .pulse ∨ pl = .unused) then cutChannel k s else s

/-- R184: a test pulse whose output a new map has moved since it was taken is withdrawn, or cut where it runs. -/
def endMovedTest (s : State) : State :=
  if s.test.phase ≠ .none ∧ s.test.moved then
    endTest (if s.test.phase = .running then cutChannel s.test.output s else s)
  else s

/-- R120, R137: a pedal output newly mapped UNUSED gives up its kick's slot.  A kick granted without a slot on an UNUSED
output takes none when a new map wires that output (assumption log 27). -/
def remapPedal (s : State) (pd : Pedal) : State :=
  if vget s.drive.builtMap (pedalOutput pd) .unused ≠ place s (pedalOutput pd) ∧ place s (pedalOutput pd) = .unused then freeKick pd s else s

/-- What a build makes of the outputs whose place has changed since the build before it.  R109, R120, R137 and R184 name no
stage for it: the model does it at the head of the build, before stage 1, so that a slot freed so can be granted at stage 5
of that same build (DESIGN CHOICE, assumption log 34). -/
def takeMap (s : State) : State :=
  let s := endMovedTest s
  if s.drive.builtMap = s.tables.live.map then s
  else
    let s := [Pedal.damper, Pedal.shift].foldl remapPedal ((List.range 88).foldl remapKey s)
    { s with drive := { s.drive with builtMap := s.tables.live.map } }

/-! ### Stage 1: echoes (R122 to R124, R126) -/

/-- R124: the chain's key channels go OFF, a test pulse on it ends, and CHAIN attention is raised. -/
def faultChain (c : Nat) (s : State) : State :=
  let s := setChain c (fun r => { r with state := .faulted, badRun := 3 }) s
  let s := (List.range 88).foldl
    (fun t k => if (place t k).onChain c then endTestOn k (cutChannel k t) else t) s
  raise .chain s

/-- R123, R126: the chain enters ONLINE and the tracks sounding on it are marked INTERRUPTED. -/
def bringOnline (c : Nat) (s : State) : State :=
  let s := setChain c (fun r => { r with state := .online, goodRun := 8, badRun := 0 }) s
  (List.range 88).foldl
    (fun t n => if (place t (track t n).key).onChain c then markInterrupted n t else t) s

/-- R122 to R124: the echo of the frame sent at the build before is judged. -/
def judgeEcho (s : State) (c : Nat) : State :=
  let r := chainRec s c
  let good := r.echo == .good
  match r.state with
  | .probing =>
    if good then
      (if 8 ≤ r.goodRun + 1 then bringOnline c s else setChain c (fun r => { r with goodRun := r.goodRun + 1 }) s)
    else setChain c (fun r => { r with goodRun := 0 }) s
  | .online =>
    if good then setChain c (fun r => { r with badRun := 0 }) s
    else if 3 ≤ r.badRun + 1 then faultChain c s
    else setChain c (fun r => { r with badRun := r.badRun + 1 }) s
  | .faulted => s

def stageEchoes (s : State) : State := (List.range 4).foldl judgeEcho s

/-! ### Stage 2: gap countdowns (R95, R96) -/

def stageCountdowns (s : State) : State :=
  handOnAll { s with sched := { s.sched with keys := vmap (fun r => { r with countdown := r.countdown - 1 }) s.sched.keys } }

/-! ### Stage 3: slots, pulses and pedal profiles (R112, R115, R132, R133) -/

/-- Whether the pulse of a channel has run its delivered width at a build. -/
def KeyChannel.runOut (build : Nat) (c : KeyChannel) : Bool :=
  c.state == .pulse && decide (c.start + pulseBuilds c.pw10 ≤ build)

/-- R115: a pulse that has run goes to HOLD, a test pulse to OFF. -/
def KeyChannel.pulseEnds (c : KeyChannel) : KeyChannel :=
  if c.test then { c with state := .off, test := false } else { c with state := .hold }

/-- R115, R183: the pulse of key `k` ends; with a test pulse its phase becomes NONE. -/
def endPulse (k : Nat) (s : State) : State :=
  let s := if (channel s k).test ∧ s.test.phase = .running ∧ s.test.output = k then endTest s else s
  setChannel k KeyChannel.pulseEnds s

/-- Whether a slot stays busy at a build: its free time lies ahead and, for a kick, its pedal is still in KICK (R112,
R134, R135). -/
def BusySlot.stays (s : State) (build : Nat) (b : BusySlot) : Bool :=
  decide (build < b.freesAt) &&
    match b.holder with
    | .kick pd => (s.pedals.get pd).state == .kick
    | .strike _ | .suppressed _ | .test _ => true

/-- R183: whether the width of the running test pulse has run at a build, also where a restrike OFF has cut it. -/
def testRunOut (build : Nat) (s : State) : Bool :=
  let c := channel s s.test.output
  s.test.phase == .running && decide (c.start + pulseBuilds c.pw10 ≤ build)

def stageEnds (s : State) : State :=
  let build := s.timing.build
  let s := setBusy (List.filter (BusySlot.stays s build)) s
  let s := (List.range 88).foldl (fun t k => if (channel t k).runOut build then endPulse k t else t) s
  let s := if testRunOut build s then endTest s else s
  let ended (r : PedalRec) (pd : Pedal) (t : State) : State :=
    if r.state = .kick ∧ (t.pedals.get pd).state ≠ .kick then freeKick pd t else t
  let before := s.pedals
  let s := { s with pedals := s.pedals.map PedalRec.stage3 }
  ended before.shift .shift (ended before.damper .damper s)

/-! ### Stage 4: releases, drops and OFFs (R97, R100, R101, R115, R131) -/

/-- R95: a release issue on key `k` at a position, with its countdown. -/
def recordRelease (k : Nat) (pos : Option Nat) (s : State) : State :=
  setKey k (fun r =>
    { r with last := .release, lastPos := pos, countdown := releaseCountdown (liveVoicing s k).rgap, offDue := false }) s

/-- R100: an entry behind a pending OFF turns WAITING, with the release position R95 gives now. -/
def unblock (k : Nat) (s : State) : State :=
  setTimeline (List.map fun e =>
    match e.body with
    | .strike b =>
      if b.key = k ∧ b.offPending then
        { e with state := .waiting, releasePos := headPosition s e, body := .strike { b with offPending := false } }
      else e
    | .release _ | .lift _ | .drop _ => e) s

/-- R101, R103: the OFF of a key that lost its owners is recorded as a release issue with position none; a restrike
that waited on that key's OFF goes on (R100). -/
def recordOff (s : State) (k : Nat) : State :=
  if (keyRec s k).offDue then unblock k (recordRelease k none s) else s

/-- Whether a restrike waits on the OFF of key `k`. -/
def offWanted (s : State) (k : Nat) : Bool :=
  s.sched.timeline.any fun e =>
    match e.body with
    | .strike b => b.key == k && b.offPending
    | .release _ | .lift _ | .drop _ => false

/-- R100: the OFF of a restrike issues at the first build at which the key's countdown has run out.  Where a marking has
left the key without owners that OFF is dropped, and the entry waits for the one R101 records.  A test pulse that waits
for the key may start at stage 5 of this same build (DESIGN CHOICE, assumption log 35). -/
def restrikeOff (s : State) (k : Nat) : State :=
  if offWanted s k ∧ (keyRec s k).countdown = 0 ∧ (keyRec s k).offDue = false then
    unblock k (recordRelease k (some s.clock.p) (cutChannel k s))
  else s

/-- R97: a RELEASE issues or, when void, is discarded. -/
def issueRelease (e : Entry) (b : ReleaseBody) (s : State) : State :=
  let s := dropEntry e.seq s
  let s := if b.void then s
    else recordRelease b.key (some s.clock.p) (setKey b.key (fun r => { r with owners := r.owners - 1 }) s)
  if (track s b.track).inForce = some b.paired then noteFinishes b.track s else s

/-- R97, R129, R131: a PEDAL_DROP issues: the roll state becomes UP, and the pedal goes to REST when its target is UP,
giving back a kick's slot at once.  The frame of the build carries OFF for it unless its next lift is granted at stage 5
(assumption log 35). -/
def issueDrop (e : Entry) (pd : Pedal) (s : State) : State :=
  let s := setPedal pd (fun r => { r with roll := .up }) (dropEntry e.seq s)
  if (s.pedals.get pd).target = .up then restPedal pd (freeKick pd s) else s

/-- A release or a drop that stands RELEASED-TO-ARBITER: it issues at this build (R97, R131). -/
def Entry.issues (e : Entry) : Bool :=
  match e.body with
  | .release _ | .drop _ => e.state == .released
  | .strike _ | .lift _ => false

/-- One entry issues. -/
def issueEntry (s : State) (e : Entry) : State :=
  match e.body with
  | .release b => issueRelease e b s
  | .drop pd => issueDrop e pd s
  | .strike _ | .lift _ => s

/-- R115, R184: a channel in PULSE or HOLD that neither an owner nor a test pulse keeps goes to OFF. -/
def dropIdle (s : State) (k : Nat) : State :=
  let c := channel s k
  let carries := c.test && s.test.phase == .running && s.test.output == k
  if c.state ≠ .off ∧ carries = false ∧ ((keyRec s k).owners = 0 ∨ c.test) then cutChannel k s else s

/-- R96, R97, R109: everything that stands to issue issues, and what becomes head and eligible thereby issues at this same
build, round after round; each round takes an entry out of the Timeline.  A drop's issue can make its pedal's next lift
head and already due: it is handed on here, in stage 4, and may be granted at stage 5 of this same build, whose frame then
carries HOLD with the kick duty where R131 has the frame of that build carry OFF.  R96, R109 and R132 allow the one and
R131 says the other: that the lift does not wait for the next build is the model's choice (DESIGN CHOICE, unsafe,
assumption log 35). -/
def issueRounds : Nat → State → State
  | 0, s => s
  | n + 1, s =>
    match dueOrder (s.sched.timeline.filter Entry.issues) with
    | [] => s
    | e :: rest => issueRounds n (handOnAll ((e :: rest).foldl issueEntry s))

/-- The keys whose OFF stands to be recorded (R101, R103). -/
def offsDue (s : State) : List Nat := (List.range 88).filter fun k => (keyRec s k).offDue

/-- Stage 4; `due`: the keys whose OFF stood to be recorded when the build began.  One that a marking of this build's
stage 1 leaves without owners is recorded at the next build (R101). -/
def stageReleases (due : List Nat) (s : State) : State :=
  let s := due.foldl recordOff s
  let s := if s.clock.state.hands then issueRounds s.sched.timeline.length s else s
  let s := (List.range 88).foldl restrikeOff s
  handOnAll ((List.range 88).foldl dropIdle s)

/-! ### Stage 5: the Arbiter (R98, R99, R110 to R113, R118, R126, R132, R183) -/

/-- R118: the width a pulse started on key `k` is delivered at, and whether it was capped. -/
def deliveredPw10 (s : State) (k pw10 cap10 : Nat) : Nat × Bool :=
  if s.tables.live.drive.hLim ≤ (channel s k).heat then (min pw10 cap10, true) else (pw10, false)

/-- A pulse starts on a key channel in this build's frame, holding a slot (R112, R115, R118).  The slot of a pulse it
restarts stays busy to its own time (assumption log 30). -/
def startPulse (k pw10 cap10 : Nat) (test : Bool) (s : State) : State :=
  let d := deliveredPw10 s k pw10 cap10
  let build := s.timing.build
  let s := setChannel k (fun c => { c with state := .pulse, pw10 := d.1, start := build, test := test }) s
  let s := setBusy (· ++ [⟨if test then .test k else .strike k, build + pulseBuilds d.1⟩]) s
  if d.2 then { s with drive := { s.drive with thermalCaps := bump16 s.drive.thermalCaps } } else s

/-- R132: a lift of a pedal is granted. -/
def grantLift (pd : Pedal) (s : State) : State :=
  let f := (livePedal s pd).figures
  let s := setPedal pd (PedalRec.granted f) (cancelLift pd s)
  match place s (pedalOutput pd) with
  | .unused => s
  | .wired _ _ => setBusy (· ++ [⟨.kick pd, s.timing.build + f.kickTime⟩]) s

/-- R111: a waiting pedal lift, from the roll or the Pedal Unit, takes a slot where one is free; an UNUSED output needs
none.  That a pedal rested since the build before, or at stage 4 of this one, is granted here too is the model's choice
(R131, R135; assumption log 35). -/
def offerLift (s : State) (pd : Pedal) : State :=
  if (s.pedals.get pd).state = .waitingSlot ∧ (place s (pedalOutput pd) = .unused ∨ 0 < freeSlots s) then grantLift pd s else s

/-- R183: the waiting test pulse takes a slot where one is free; no pulse starts on an output that is UNUSED or on a chain
that is not ONLINE (R115, assumption log 31).  The OFF of a restrike on the key does not hold it back (log 35). -/
def offerTest (s : State) : State :=
  if s.test.phase = .waiting ∧ 0 < freeSlots s ∧ outputOnline s s.test.output then
    let k := s.test.output
    startPulse k s.test.pw10 (capPw10 (liveVoicing s k)) true { s with test := { s.test with phase := .running } }
  else s

/-- R98, R102, R113, R150: the lateness of a strike, P minus its due position and the roll of the waits that
`Entry.waited` counts.  That the waits count so settles a conflict of the manual (assumption log 32). -/
def lateness (s : State) (e : Entry) (b : StrikeBody) : Nat :=
  s.clock.p - e.due + pausedDistance b.held s.clock.vCmd16

/-- R99: a strike is dropped as stale. -/
def dropStrike (e : Entry) (b : StrikeBody) (s : State) : State :=
  let s := dropEntry e.seq s
  let s := setTimeline (List.map fun x =>
    match x.body with
    | .release r => if r.paired = e.seq then { x with body := .release { r with void := true } } else x
    | .strike _ | .lift _ | .drop _ => x) s
  let s := setTrack b.track (fun r => if r.openNote = some e.seq then { r with openNote := none } else r) s
  let s := { s with sched := { s.sched with staleDrops := bump16 s.sched.staleDrops } }
  if (track s b.track).inForce = some e.seq then noteFinishes b.track s else s

/-- R98: a strike issues with its lateness: it is counted where late, the worst-lateness figures rise, and the owner
count, the key record and the track record move.  An OFF of the key still to be recorded is replaced (log 12). -/
def issueStrike (e : Entry) (b : StrikeBody) (delivered : Nat) (s : State) : State :=
  let late := lateness s e b
  let s := dropEntry e.seq s
  let s := if lateTolerance s.clock.vCmd16 < late ∧ b.caught = false then
      { s with sched := { s.sched with lateStrikes := bump16 s.sched.lateStrikes } }
    else s
  let s := if b.caught then s
    else { s with ports := s.ports.map fun r => { r with worst := max r.worst late } }
  let s := setKey b.key (fun r =>
    { r with owners := r.owners + 1, last := .strike, lastPos := some s.clock.p, lastPw10 := b.pw10,
             countdown := strikeCountdown delivered, offDue := false }) s
  setTrack b.track TrackRec.strikeIssued s

/-- R111, R113, R126: one waiting strike at its turn, judged by its lateness (assumption log 32). -/
def offerStrike (s : State) (e : Entry) : State :=
  match e.body with
  | .strike b =>
    let unused := decide (place s b.key = .unused)
    if unused ∨ 0 < freeSlots s then
      if staleLimit s.clock.vCmd16 < lateness s e b then dropStrike e b s
      else if unused then issueStrike e b b.pw10 s
      else if outputOnline s b.key then
        let d := deliveredPw10 s b.key b.pw10 b.cap10
        startPulse b.key b.pw10 b.cap10 false (issueStrike e b d.1 s)
      else
        let s := issueStrike e b b.pw10 s
        let s := setBusy (· ++ [⟨.suppressed b.key, s.timing.build + pulseBuilds b.pw10⟩]) s
        { s with drive := { s.drive with suppressed := bump16 s.drive.suppressed } }
    else s
  | .release _ | .lift _ | .drop _ => s

/-- The grant order of strikes (R111): earliest release position, then higher L', then lower key. -/
def Entry.before (x y : Entry) : Bool :=
  match x.body, y.body with
  | .strike a, .strike b =>
    decide (x.releasePos < y.releasePos)
      || (decide (x.releasePos = y.releasePos)
        && (decide (b.level < a.level) || (decide (a.level = b.level) && decide (a.key < b.key))))
  | _, _ => false

def insertGrant (e : Entry) : List Entry → List Entry
  | [] => [e]
  | x :: t => if e.before x then e :: x :: t else x :: insertGrant e t

/-- The strikes of the waiting set in grant order (R110, R111). -/
def waitingStrikes (s : State) : List Entry :=
  (s.sched.timeline.filter fun e =>
    match e.body with
    | .strike _ => e.state == .released
    | .release _ | .lift _ | .drop _ => false).foldl (fun acc e => insertGrant e acc) []

/-- Stage 5.  The walk is over the set as it stands when the strikes' turn comes: one that becomes head and eligible by a
drop inside the walk is handed on after it, and granted at the next build (assumption log 29). -/
def stageGrants (s : State) : State :=
  let s := offerTest ([Pedal.damper, Pedal.shift].foldl offerLift s)
  let s := if s.clock.state.hands then (waitingStrikes s).foldl offerStrike s else s
  handOnAll s

/-! ### Stage 6: frames and heat (R116, R117, R118, R121, R181) -/

/-- The hold duty of a key at this build, halved when its channel is hot (R116). -/
def keyDuty (s : State) (k : Nat) : Nat :=
  let d := (liveVoicing s k).holdDuty
  if s.tables.live.drive.hWarn ≤ (channel s k).heat then d / 2 else d

/-- What a key channel gives its chain channel (R116). -/
def keySlot (s : State) (k : Nat) : DriveSlot :=
  let c := channel s k
  match c.state with
  | .off => .off
  | .pulse =>
    if c.start = s.timing.build then .pulse c.pw10
    else .hold (if c.test then 0 else keyDuty s k)
  | .hold => .hold (keyDuty s k)

/-- What a pedal channel gives its chain channel (R116). -/
def pedalSlot (s : State) (pd : Pedal) : DriveSlot :=
  let r := s.pedals.get pd
  match r.state with
  | .rest | .waitingSlot => .off
  | .kick | .ease => .hold r.duty
  | .hold => .hold (if s.tables.live.drive.hWarn ≤ s.drive.pedalHeat.get pd then r.duty / 2 else r.duty)

/-- What output `o` gives its chain channel. -/
def outputSlot (s : State) (o : Nat) : DriveSlot :=
  if o < 88 then keySlot s o else if o = 88 then pedalSlot s .damper else pedalSlot s .shift

/-- The slot of channel `j` in the frame of chain `c` (R119, R121): OFF on a chain that is not ONLINE and where no
output is mapped. -/
def frameSlot (s : State) (c j : Nat) : DriveSlot :=
  if (chainRec s c).state = .online then
    match (List.range 90).find? fun o => place s o == .wired c j with
    | some o => outputSlot s o
    | none => .off
  else .off

def frameSlots (s : State) (c : Nat) : List DriveSlot := (List.range 24).map (frameSlot s c)

/-- R121: the frame of chain `c` is sent and noted, and its sequence advances. -/
def sendFrame (slots : State) (s : State) (c : Nat) : State :=
  setChain c (fun r =>
    let frame := driveFrame r.seq (frameSlots slots c)
    { r with lastSent := some (r.seq, frame.getD 49 0#8), echo := .none, seq := r.seq + 1, wire := frame }) s

/-- R181: the frame just sent to the checked chain is fed to the register; at the build at which the frames left reach
0 the result takes the register's value and the done flag is set. -/
def feedCheck (s : State) : State :=
  if 0 < s.check.left then
    let register := crcBytes s.check.register (chainRec s s.check.chain).wire
    let left := s.check.left - 1
    let result := if left = 0 then register else s.check.result
    { s with
      check := { s.check with register := register, left := left, result := result, done := s.check.done || left == 0 } }
  else s

/-- R117: the heat an output's slot adds: a PULSE its width; a key in HOLD, or a pedal in KICK, EASE or HOLD, a sixteenth
of the duty carried; an output not driven nothing. -/
def heatAdded (s : State) (o : Nat) : Nat :=
  if outputOnline s o then
    match outputSlot s o with
    | .off => 0
    | .pulse w => w
    | .hold d => if o < 88 ∧ (channel s o).state = .pulse then 0 else d / 16
  else 0

/-- R117: heat after a build. -/
def nextHeat (cooling heat added : Nat) : Nat := min (heat + added) 4000 - cooling

/-- The heat of an output. -/
def outputHeat (s : State) (o : Nat) : Nat :=
  if o < 88 then (channel s o).heat else if o = 88 then s.drive.pedalHeat.damper else s.drive.pedalHeat.shift

/-- R117: every channel's heat after the frames composed from `s`. -/
def updateHeat (s : State) : State :=
  let cooling := s.tables.live.drive.cooling
  { s with
    drive :=
      { s.drive with
        channels := vmapIdx (fun k c => { c with heat := nextHeat cooling c.heat (heatAdded s k) }) s.drive.channels
        pedalHeat :=
          ⟨nextHeat cooling s.drive.pedalHeat.damper (heatAdded s 88),
           nextHeat cooling s.drive.pedalHeat.shift (heatAdded s 89)⟩ } }

/-- R118: whether the update from `s` to `t` takes some channel's heat from below H_lim to at or above it. -/
def crossesLimit (s t : State) : Bool :=
  let lim := s.tables.live.drive.hLim
  (List.range 90).any fun o => decide (outputHeat s o < lim) && decide (lim ≤ outputHeat t o)

def stageFrames (s : State) : State :=
  let t := feedCheck ((List.range 4).foldl (sendFrame s) s)
  let u := updateHeat t
  if crossesLimit t u then raise .thermal u else u

/-! ### The build (R109) -/

/-- R102: whether a strike's due position has been passed as P stands, or reached and the strike handed on (R143). -/
def Entry.duePassed (p : Nat) (e : Entry) : Bool := decide (e.due < p) || (decide (e.due = p) && e.state == .released)

/-- Whether the build under way counts in the wait of a strike: in PAUSED where its due position was passed (R102, R113);
for a caught strike in every state but PLAYING, in READY above all, where P has reached its due position (R150).  The wait
of any other strike in READY, STARVED or STEPPING does not count (assumption log 32). -/
def Entry.waits (c : RollClock) (e : Entry) (b : StrikeBody) : Bool :=
  (c.state == .paused && e.duePassed c.p) || (b.caught && c.state != .playing && decide (e.due ≤ c.p))

/-- A drive period is added to the wait of a strike in which it counts. -/
def Entry.waited (c : RollClock) (e : Entry) : Entry :=
  match e.body with
  | .strike b => if e.waits c b then { e with body := .strike { b with held := b.held + 1 } } else e
  | .release _ | .lift _ | .drop _ => e

/-- Every entry waits through a build (assumption log 32). -/
def accruePause (s : State) : State := setTimeline (List.map (Entry.waited s.clock)) s

/-- A new build begins. -/
def beginBuild (s : State) : State :=
  accruePause { s with timing := { s.timing with phase := 0, build := s.timing.build + 1 } }

/-- One frame build: a new build begins, the changed map is taken (assumption log 34), then the six stages in order.  The
OFFs that stage 4 records are those that stood when the build began (assumption log 12). -/
def build (s : State) : State :=
  let s := beginBuild s
  stageFrames (stageGrants (stageReleases (offsDue s) (stageEnds (stageCountdowns (stageEchoes (takeMap s))))))

end Sys2Proof.Machine
end

