-- ==== Sys2Proof/Machine/DriveCommands.lean ====
section
/-! DEFINITION. The meanings of the requests and events the Drive Unit owns (chapters 6 and 11), and of the parts of a
frame build that the table lists as rows of their own. -/

namespace Sys2Proof.Machine

/-! ### Requests -/

/-- R125. -/
def ownerRestart (c : Nat) (s : State) : State × Response :=
  if 4 ≤ c then refuse .refusedRange s
  else
    match (chainRec s c).state with
    | .faulted | .probing => taken (setChain c (fun r => { r with state := .probing, goodRun := 0 }) s)
    | .online => refuse .refusedState s

/-- RESTART CHAIN (R125). -/
def execRestartChain (p : Port) (chain : Byte) (s : State) : Answer :=
  request p (.restartChain p chain) (ownerRestart chain.toNat) s

/-- R180: a check starts, or restarts. -/
def startCheck (c n : Nat) (s : State) : State :=
  { s with check := { chain := c, left := n, register := 0xFFFF#16, result := 0#16, done := false } }

def ownerFrameCrc (c n : Nat) (s : State) : State × Response :=
  if c < 4 ∧ 1 ≤ n then taken (startCheck c n s) else refuse .refusedRange s

/-- FRAME CRC (R180). -/
def execFrameCrc (p : Port) (chain count : Byte) (s : State) : Answer :=
  request p (.frameCrc p chain count) (ownerFrameCrc chain.toNat count.toNat) s

/-- The roll states in which a test pulse is taken (R182). -/
def RollState.allowsTest : RollState → Bool
  | .empty | .paused => true
  | .leader | .ready | .playing | .starved | .seeking | .preroll | .stepping | .ended => false

/-- R182, in its order of tests. -/
def ownerTestPulse (o pw10 : Nat) (s : State) : State × Response :=
  if 88 ≤ o ∨ pw10 < 1 ∨ 800 < pw10 then refuse .refusedRange s
  else if s.clock.state.allowsTest = false then refuse .refusedState s
  else if s.test.phase ≠ .none then refuse .refusedState s
  else if outputOnline s o = false then refuse .refusedState s
  else taken { s with test := ⟨.waiting, o, pw10, false⟩ }

/-- TEST PULSE (R182). -/
def execTestPulse (p : Port) (output : Byte) (pw10 : BitVec 16) (s : State) : Answer :=
  request p (.testPulse p output pw10) (ownerTestPulse output.toNat pw10.toNat) s

/-! ### The frame build and the echoes (R109, R122) -/

/-- FRAME_BUILD (R109). -/
def execFrameBuild (s : State) : Answer := .next (settle (build s))

/-- R122, R191: an echo is compared with the last frame sent. -/
def Chain.takeEcho (seq check : Byte) (framed : Bool) (r : Chain) : Chain :=
  if r.echo = .none then { r with echo := if framed && r.lastSent == some (seq, check) then .good else .wrong } else r

/-- ECHO_RECEIVED (R122). -/
def execEchoReceived (chain : Fin 4) (seq check : Byte) (framed : Bool) (s : State) : Answer :=
  .next (setChain chain (Chain.takeEcho seq check framed) s)

/-! ### Parts of a build (assumption log 10)

Each of these rows names a thing that a frame build brings about.  As a command of its own it is taken for the build
that comes: what falls due at that build is taken now, and the build does the rest. -/

/-- GAP_COUNTDOWN_EXPIRY (R95): a countdown with one period left runs out. -/
def execGapCountdownExpiry (key : Fin 88) (s : State) : Answer :=
  if (keyRec s key).countdown = 1 then .next (settle (setKey key (fun r => { r with countdown := 0 }) s)) else .next s

/-- SLOT_FREE (R112): the slots held for an output that free at the coming build. -/
def execSlotFree (output : Fin 90) (s : State) : Answer :=
  .next (setBusy (List.filter fun b => b.holder.output != output.val || b.stays s (s.timing.build + 1)) s)

/-- PULSE_END (R115): the pulse of a key that has run by the coming build. -/
def execPulseEnd (key : Fin 88) (s : State) : Answer :=
  if (channel s key).runOut (s.timing.build + 1) then .next (endPulse key s) else .next s

/-- KICK_END (R133): the kick of a pedal ends, and its slot frees (R112). -/
def execKickEnd (pd : Pedal) (s : State) : Answer :=
  let r := s.pedals.get pd
  if r.state = .kick ∧ r.stepped = false ∧ r.countdown ≤ 1 then
    .next (freeKick pd (setPedal pd (fun r => { r.kickEnds with stepped := true }) s))
  else .next s

/-- EASE_STEP (R133): the duty of an easing pedal falls. -/
def execEaseStep (pd : Pedal) (s : State) : Answer :=
  let r := s.pedals.get pd
  if r.state = .ease ∧ r.stepped = false ∧ r.countdown ≤ 1 then
    .next (setPedal pd (fun r => { r.easeFalls with stepped := true }) s)
  else .next s

/-- FRAME_CRC_DONE (R181): the frames left reach 0 at stage 6 of the build that sends the last frame of the check; with
one frame left that build is the coming one, and it is taken. -/
def execFrameCrcDone (s : State) : Answer := if s.check.left = 1 then .next (settle (build s)) else .next s

end Sys2Proof.Machine
end

