-- ==== Sys2Proof/Machine/IntakeCommands.lean ====
section
/-! DEFINITION. The meanings of the commands the Intake Unit owns (chapter 2). -/

namespace Sys2Proof.Machine

/-- Damage policies by code (R185); none for a code that names neither. -/
def decodePolicy (code : Nat) : Option Policy :=
  match code with
  | 0 => some .hold
  | 1 => some .halt
  | _ => none

/-- R25: a ring in range, which ends at or below the Port S capture record. -/
def ringInRange (base q : Nat) : Bool :=
  decide (16 ≤ q ∧ q ≤ 128) && decide (base % 4 = 0) && decide (base + slotLength * q ≤ 0x0BC0)

/-- R25: the ring is attached; the owned count is what the control bytes show, and the backed-up flag is cleared. -/
def attach (base q : Nat) (policy : Policy) (s : State) : State :=
  let k := { s.intake with attached := true, base := base, q := q, policy := policy, index := 0, state := .running }
  settle
    { s with
      intake := { k with owned := countOwned s.mem k }
      clock := { s.clock with backedUp := false } }

/-- R25, in its order of tests. -/
def ownerAttach (base q policy : Nat) (s : State) : State × Response :=
  if s.clock.state ≠ .empty then refuse .refusedState s
  else
    match decodePolicy policy with
    | none => refuse .refusedRange s
    | some h => if ringInRange base q then taken (attach base q h s) else refuse .refusedRange s

/-- ATTACH RING (R25). -/
def execAttachRing (p : Port) (base : BitVec 16) (q policy : Byte) (s : State) : Answer :=
  request p (.attachRing p base q policy) (ownerAttach base.toNat q.toNat policy.toNat) s

/-- R33: the intake state becomes RUNNING, from either state. -/
def ownerResume (s : State) : State × Response := taken { s with intake := { s.intake with state := .running } }

/-- INTAKE RESUME (R33). -/
def execIntakeResume (p : Port) (s : State) : Answer := request p (.intakeResume p) ownerResume s

/-- CONSUMPTION_EVENT (R29), when an examination finds every condition of R28 met; an examination that does not leaves
everything as it stands (R27). -/
def execConsumptionEvent (s : State) : Answer := if consumable s then .next (consume s) else .next s

end Sys2Proof.Machine
end

