-- ==== Sys2Proof/Machine/RollCommands.lean ====
section
/-! DEFINITION. The meanings of the requests and events the Roll Clock and the Cue Unit own (chapters 1 and 8). -/

namespace Sys2Proof.Machine

/-! ### LOAD (R4 and the rule of each block) -/

/-- The counters that LOAD clears (R4, R42, R51, R103, R106, R144). -/
def clearCounters (s : State) : State :=
  { s with
    clock := { s.clock with starvations := 0, discontinuities := 0 }
    intake := { s.intake with linesConsumed := 0, gapsFilled := 0, damaged := 0, duplicates := 0 }
    reading := { s.reading with specks := 0 }
    sched := { s.sched with lateStrikes := 0, staleDrops := 0, restrikes := 0 }
    drive := { s.drive with thermalCaps := 0, suppressed := 0 }
    seek := { s.seek with shorts := 0 } }

/-- LOAD taken in EMPTY: the roll starts in LEADER with every block's per-roll state cleared (R4, R42, R45, R63, R66,
R67, R103, R129, R139, R184). -/
def startRoll (s : State) : State :=
  let s := clearCounters (rollStatesUp (endTest (clearSchedule s)))
  let s := setP 0 s
  let s := { s with
    clock :=
      { s.clock with
        state := .leader
        nIn := 0
        lineHeld := false
        signatureTaken := false
        endLine := none
        c := 0 }
    intake := { s.intake with lastImage := 0#104, endStop := false, state := .running } }
  let s := clearReading s
  let s := { s with reading := { s.reading with signature := 0xFFFF#16, signatureValid := true } }
  rearmCues (mirrorCleared (latchMask (applyProfile 0 (clearExpression s))))

/-- R4: LOAD by the roll state. -/
def ownerLoad (s : State) : State × Response :=
  match s.clock.state with
  | .empty => if s.intake.attached then taken (settle (startRoll s)) else refuse .refusedState s
  | .ended => taken (settle (startRoll (stopRoll s)))
  | .leader | .ready | .playing | .starved | .paused | .seeking | .preroll | .stepping => refuse .refusedState s

/-- LOAD (R4). -/
def execLoad (p : Port) (s : State) : Answer := request p (.load p) ownerLoad s

/-! ### PLAY, PAUSE, STOP (R7, R9, R10) -/

/-- R7, R135, R184: PLAYING is entered from READY, or from PAUSED with the pedals re-driven. -/
def resumePlay (s : State) : State :=
  let s := match s.clock.state with
    | .paused => moveToTarget .shift (moveToTarget .damper s)
    | .empty | .leader | .ready | .playing | .starved | .seeking | .preroll | .stepping | .ended => s
  settle (meetBoundary (beginPlaying (endTest s)))

def ownerPlay (s : State) : State × Response :=
  match s.clock.state with
  | .ready | .paused => taken (resumePlay s)
  | .playing => taken s
  | .empty | .leader | .starved | .seeking | .preroll | .stepping | .ended => refuse .refusedState s

/-- PLAY (R7). -/
def execPlay (p : Port) (s : State) : Answer := request p (.play p) ownerPlay s

def ownerPause (s : State) : State × Response :=
  match s.clock.state with
  | .playing | .starved => taken (settle (pauseRoll s))
  | .paused => taken s
  | .empty | .leader | .ready | .seeking | .preroll | .stepping | .ended => refuse .refusedState s

/-- PAUSE (R9). -/
def execPause (p : Port) (s : State) : Answer := request p (.pause p) ownerPause s

/-- STOP (R10). -/
def execStop (p : Port) (s : State) : Answer := request p (.stop p) (fun t => taken (settle (stopRoll t))) s

/-! ### TEMPO (R11) -/

/-- DONE or CLAMPED (R170). -/
def clampStatus (clamped : Bool) : Status := if clamped then .clamped else .done

/-- R11, R3: the tempo trim and the commanded rate it gives. -/
def setTempo (perMille : Nat) (s : State) : State :=
  let tau := clampNat 500 1500 perMille
  settle { s with clock := { s.clock with tau := tau, vCmd16 := commandedRate s.clock.vNom16 tau } }

/-- R11: whether either clamp altered its figure. -/
def tempoClamped (perMille vNom16 : Nat) : Bool :=
  let tau := clampNat 500 1500 perMille
  tau != perMille || commandedRate vNom16 tau != rawRate vNom16 tau

def ownerTempo (perMille : Nat) (s : State) : State × Response :=
  let t := setTempo perMille s
  (t, ⟨clampStatus (tempoClamped perMille s.clock.vNom16), natBytes 2 t.clock.tau ++ natBytes 2 t.clock.vCmd16⟩)

/-- TEMPO (R11). -/
def execTempo (p : Port) (perMille : BitVec 16) (s : State) : Answer :=
  request p (.tempo p perMille) (ownerTempo perMille.toNat) s

/-! ### Step mode (R15, R16) -/

def ownerStepOn (s : State) : State × Response :=
  match s.clock.state with
  | .ready | .paused => taken (settle (setRoll .stepping (endTest s)))
  | .stepping => taken s
  | .empty | .leader | .playing | .starved | .seeking | .preroll | .ended => refuse .refusedState s

/-- STEP MODE ON (R15). -/
def execStepModeOn (p : Port) (s : State) : Answer := request p (.stepModeOn p) ownerStepOn s

def ownerStepOff (s : State) : State × Response :=
  match s.clock.state with
  | .stepping => taken (settle (setRoll .paused s))
  | .empty | .leader | .ready | .playing | .starved | .paused | .seeking | .preroll | .ended => refuse .refusedState s

/-- STEP MODE OFF (R15). -/
def execStepModeOff (p : Port) (s : State) : Answer := request p (.stepModeOff p) ownerStepOff s

/-- Where a STEP of `n` lines would carry P (R16). -/
def stepTarget (n : Nat) (s : State) : Nat := min (s.clock.p + 256 * n) (s.clock.nIn * 256)

/-- R16: a STEP of `n` lines; the roll ends where the step reaches E·256 (R18). -/
def takeStep (n : Nat) (s : State) : State :=
  let x := stepTarget n s
  let s := stepThrough x (crossings s s.clock.p x) s
  let s := match s.clock.state, s.clock.endLine with
    | .stepping, some e => if e * 256 ≤ s.clock.p then finishRoll e s else s
    | _, _ => s
  settle s

def ownerStep (n : Nat) (s : State) : State × Response :=
  match s.clock.state with
  | .stepping =>
    if 1 ≤ n ∧ n ≤ 64 then
      let t := takeStep n s
      (t, ⟨.done, natBytes 1 (t.clock.p / 256 - s.clock.p / 256)⟩)
    else refuse .refusedRange s
  | .empty | .leader | .ready | .playing | .starved | .paused | .seeking | .preroll | .ended => refuse .refusedState s

/-- STEP (R16). -/
def execStep (p : Port) (count : Byte) (s : State) : Answer := request p (.step p count) (ownerStep count.toNat) s

/-! ### SEEK (R145) -/

def ownerSeek (target : Nat) (auto : Bool) (s : State) : State × Response :=
  if s.clock.state.refusesSeek then refuse .refusedState s
  else
    let t := settle (takeSeek target auto s)
    (t, ⟨clampStatus (decide (target < 64)), natBytes 4 t.seek.target ++ natBytes 4 t.seek.start⟩)

/-- SEEK (R145); bit 0 of the flag byte is read. -/
def execSeek (p : Port) (target : BitVec 32) (autoPlay : Byte) (s : State) : Answer :=
  request p (.seek p target autoPlay) (ownerSeek target.toNat (autoPlay.getLsbD 0)) s

/-! ### Events of the advance (R8, R13, R18, R96, R142)

Each of these events happens at a position.  The event is taken where P stands at it; in PLAYING it is also taken where
nothing else that P meets lies before it, and then P advances to it first (assumption log 7).  Anywhere else nothing
happens. -/

/-- Whether the advance of P in PLAYING can take P to `x` with nothing that P meets before it. -/
def canReach (x : Nat) (s : State) : Bool :=
  s.clock.state == .playing && decide (s.clock.p < x) && decide (x ≤ s.clock.nIn * 256) && clearTo s x

/-- An event at the position `x`.  Where P stands there it is taken; where P can be advanced there it is taken on arrival,
and the cues that the arrival crosses fire after it in the same step (R143: either may be first; log 17).  Where play still
goes on and has arrived at E·256 or N_in·256, the roll ends or starves in that step too (R9, R13, R18). -/
def eventAt (x : Nat) (event : State → State) (s : State) : Answer :=
  if x = s.clock.p then .next (settle (event s))
  else if canReach x s then .next (settle (meetBoundary (fireCues (crossings s s.clock.p x) (event (advanceTo x s)))))
  else .next s

/-- STARVATION (R13): in PLAYING, P reaches N_in·256 with no end line there. -/
def execStarvation (s : State) : Answer :=
  if s.clock.state = .playing ∧ s.clock.endLine ≠ some s.clock.nIn then eventAt (s.clock.nIn * 256) starve s
  else .next s

/-- END_OF_ROLL (R18): in PLAYING or STEPPING, P reaches E·256. -/
def execEndOfRoll (s : State) : Answer :=
  match s.clock.endLine with
  | some e =>
    if s.clock.state = .playing ∨ s.clock.state = .stepping then eventAt (e * 256) (finishRoll e) s else .next s
  | none => .next s

/-- The least of some positions above `p`. -/
def leastAbove (p : Nat) (xs : List Nat) : Option Nat := (xs.filter fun x => decide (p < x)).min?

/-- The positions of the cues that would fire (R140). -/
def cuePositions (s : State) : List Nat :=
  ((List.range 32).filter fun i => (cueAt s i).fires).map fun i => (cueAt s i).line * 256

/-- The positions at which WAITING entries whose gap has run out become eligible (R96). -/
def dueNext (s : State) : List Nat :=
  (s.sched.timeline.filter fun e => e.state == .waiting && gapRunOut s e).map (·.releasePos)

/-- P is advanced to the next of some positions, where it can be, with an event there. -/
def eventAtNext (xs : List Nat) (event : State → State) (s : State) : Answer :=
  match leastAbove s.clock.p xs with
  | some x => eventAt x event s
  | none => .next s

/-- CUE_FIRE (R142): P comes up to the next line that has an armed cue, and the cues of that line fire. -/
def execCueFire (s : State) : Answer := eventAtNext (cuePositions s) id s

/-- Whether some entry is eligible now (R96). -/
def someEligible (s : State) : Bool := (refreshHeads s).sched.timeline.any (eligible (refreshHeads s))

/-- HAND_ON (R96): what is eligible is handed on; with nothing eligible, what the next release position that P can reach
makes so. -/
def execHandOn (s : State) : Answer :=
  if someEligible s then .next (settle s) else eventAtNext (dueNext s) handOnAll s

end Sys2Proof.Machine
end

