-- ==== Sys2Proof/Machine/PlayingCommands.lean ====
section
/-! DEFINITION. The meanings of the console's playing controls: TRIM (chapter 4), TRANSPOSE (chapter 5) and PEDAL
OVERRIDE (chapter 7). -/

namespace Sys2Proof.Machine

/-! ### TRIM (R72) -/

def setTrim (gain : Nat) (balance : Int) (s : State) : State :=
  { s with expr := { s.expr with gain := clampNat 0 255 gain, balance := clampInt (-64) 64 balance } }

/-- The one-byte two's-complement code of a figure (R185). -/
def signedByte (x : Int) : Byte := BitVec.ofInt 8 x

def ownerTrim (gain : Nat) (balance : Int) (s : State) : State × Response :=
  let t := setTrim gain balance s
  (t, ⟨clampStatus (t.expr.gain != gain || t.expr.balance != balance), natBytes 1 t.expr.gain ++ [signedByte t.expr.balance]⟩)

/-- TRIM (R72). -/
def execTrim (p : Port) (gain balance : BitVec 16) (s : State) : Answer :=
  request p (.trim p gain balance) (ownerTrim gain.toNat balance.toInt) s

/-! ### TRANSPOSE (R86) -/

def setTranspose (t : Int) (s : State) : State :=
  { s with sched := { s.sched with transposition := clampInt (-6) 6 t } }

def ownerTranspose (figure : Int) (s : State) : State × Response :=
  let t := setTranspose figure s
  (t, ⟨clampStatus (t.sched.transposition != figure), [signedByte t.sched.transposition]⟩)

/-- TRANSPOSE (R86). -/
def execTranspose (p : Port) (semitones : Byte) (s : State) : Answer :=
  request p (.transpose p semitones) (ownerTranspose semitones.toInt) s

/-! ### PEDAL OVERRIDE (R134) -/

/-- Pedals and modes by code (R185); none for a code that names none. -/
def decodePedalCode (code : Nat) : Option Pedal :=
  match code with
  | 0 => some .damper
  | 1 => some .shift
  | _ => none

def decodeOverride (code : Nat) : Option Override :=
  match code with
  | 0 => some .roll
  | 1 => some .on
  | 2 => some .off
  | _ => none

/-- R134: the override is set and the pedal moves toward its new target. -/
def setOverride (pd : Pedal) (m : Override) (s : State) : State :=
  settle (moveToTarget pd (setPedal pd (fun r => { r with override := m }) s))

def ownerOverride (pedal mode : Nat) (s : State) : State × Response :=
  match decodePedalCode pedal, decodeOverride mode with
  | some pd, some m => taken (setOverride pd m s)
  | _, _ => refuse .refusedRange s

/-- PEDAL OVERRIDE (R134). -/
def execPedalOverride (p : Port) (pedal mode : Byte) (s : State) : Answer :=
  request p (.pedalOverride p pedal mode) (ownerOverride pedal.toNat mode.toNat) s

end Sys2Proof.Machine
end

