-- ==== Sys2Proof/Machine/Ports.lean ====
section
/-! DEFINITION. The meanings of the commands the ports own (chapter 10), of the transfers (R168, R169), and of pin
reset. -/

namespace Sys2Proof.Machine

/-! ### Transfers (R168, R169) -/

/-- R169: what a fetch of `n` bytes clocks out: the response from its status byte onward, then 0xFF. -/
def fetched (r : Option Response) (n : Nat) : List Byte :=
  let bytes := match r with
    | some x => x.bytes
    | none => []
  bytes.take n ++ List.replicate (n - bytes.length) 0xFF#8

/-- R169: a fetch transfer of `n` response bytes.  The buffer is unchanged. -/
def fetchBytes (p : Port) (n : Nat) (s : State) : State :=
  { s with ports := s.ports.modify p fun x => { x with assembler := [], sdo := fetched x.response n } }

/-- FETCH (R169). -/
def execFetch (p : Port) (n : Nat) (s : State) : Answer := .next (fetchBytes p n s)

/-- A request transfer answered at tests 1, 2 or 4 of R168, with no further effect. -/
def faulted (p : Port) (bytes : List Byte) (st : Status) (s : State) : State := respond p (bare st) (gather p bytes s)

/-- FRAME_FAULT (R168): a transfer of the given bytes, judged by tests 1 to 4.  Bytes that hold no fault are no
FRAME_FAULT: a fetch does what a fetch does, and a request that passes the tests is that request's own command, so
nothing happens here (assumption log 7). -/
def execFrameFault (p : Port) (bytes : List Byte) (s : State) : Answer :=
  match judgeTransfer p bytes with
  | .nothing => .next { s with ports := s.ports.modify p fun x => { x with assembler := [], sdo := [] } }
  | .fetch count => .next (fetchBytes p count s)
  | .frameFault => .next (faulted p bytes .frameFault s)
  | .unknownRequest => .next (faulted p bytes .unknownRequest s)
  | .badShape isReadStatus =>
    if s.tables.link = .loading ∧ isReadStatus = false then .next (faulted p bytes .refusedBusy s)
    else .next (faulted p bytes .refusedRange s)
  | .request _ => .next s

/-! ### Windows (R171 to R173) -/

/-- The window pointer of a port. -/
def setWindow (p : Port) (a : Nat) (s : State) : State :=
  { s with ports := s.ports.modify p fun x => { x with window := a } }

/-- R171: a read of `count` bytes from address `a`. -/
def ownerRead (p : Port) (a count : Nat) (s : State) : State × Response :=
  if 1 ≤ count ∧ count ≤ 64 ∧ a + count ≤ recordSize then (setWindow p (a + count) s, ⟨.done, readBytes s a count⟩)
  else refuse .refusedRange s

/-- READ (R171). -/
def execRead (p : Port) (addr : BitVec 16) (count : Byte) (s : State) : Answer :=
  request p (.read p addr count) (ownerRead p addr.toNat count.toNat) s

/-- READ ON (R171). -/
def execReadOn (p : Port) (count : Byte) (s : State) : Answer :=
  request p (.readOn p count) (fun t => ownerRead p (t.ports.get p).window count.toNat t) s

/-- R173: whether a WRITE of `n` bytes at `a` touches the other port's region. -/
def crossesFence (p : Port) (a n : Nat) : Bool :=
  match p with
  | .s => decide (fence < a + n)
  | .c => decide (a < fence)

/-- Whether `n` bytes at `a` touch the table area (R165). -/
def touchesTables (a n : Nat) : Bool := decide (a < tableEnd) && decide (tableBase < a + n)

/-- A store is in progress (R165). -/
def LinkState.storeBusy : LinkState → Bool
  | .storing | .verifying => true
  | .idle | .loading => false

/-- R26: what a completed WRITE does beside the bytes: a Port S WRITE is compared against the ring. -/
def afterWrite (p : Port) (before : Mem) (s : State) : State :=
  match p with
  | .s => ringCompare before s
  | .c => s

/-- R172, R173, R165: a WRITE of data bytes at an address. -/
def ownerWrite (p : Port) (a : Nat) (data : List Byte) (s : State) : State × Response :=
  if data.length < 1 ∨ 64 < data.length then refuse .refusedRange s
  else if recordSize < a + data.length then refuse .refusedRange s
  else if crossesFence p a data.length then refuse .refusedFence s
  else if p = .c ∧ s.tables.link.storeBusy ∧ touchesTables a data.length then refuse .refusedBusy s
  else taken (settle (afterWrite p s.mem (writeBytes a data s)))

/-- WRITE (R172).  More than 68 data bytes do not fit a frame (R168, test 1). -/
def execWrite (p : Port) (addr : BitVec 16) (data : List Byte) (s : State) : Answer :=
  if 68 < data.length then .next (faulted p (encodeRequest (.write p addr data)) .frameFault s)
  else request p (.write p addr data) (ownerWrite p addr.toNat data) s

/-! ### Status and attention (R174 to R176) -/

/-- READ STATUS (R174), taken in every state and throughout a settings load. -/
def execReadStatus (p : Port) (s : State) : Answer :=
  .next (respond p ⟨.done, statusPayload p s⟩ (gather p (encodeRequest (.readStatus p)) s))

/-- R175: the named sources leave the port's own pending set. -/
def ownerClear (p : Port) (sources : BitVec 16) (s : State) : State × Response :=
  let left := (s.ports.get p).pending &&& ~~~sources
  ({ s with ports := s.ports.modify p fun x => { x with pending := left } }, ⟨.done, bytes16 left⟩)

/-- CLEAR ATTENTION (R175). -/
def execClearAttention (p : Port) (sources : BitVec 16) (s : State) : Answer :=
  request p (.clearAttention p sources) (ownerClear p sources) s

/-- Line drives by code (R185); none for a code that names neither. -/
def decodeLineDrive (code : Nat) : Option LineDrive :=
  match code with
  | 0 => some .openDrain
  | 1 => some .pushPull
  | _ => none

/-- R176: the mask and the line drive of the port. -/
def ownerMask (p : Port) (sources : BitVec 16) (drive : Nat) (s : State) : State × Response :=
  match decodeLineDrive drive with
  | none => refuse .refusedRange s
  | some d =>
    let mask := sources &&& sourceBits
    ({ s with ports := s.ports.modify p fun x => { x with mask := mask, drive := d } }, ⟨.done, bytes16 mask⟩)

/-- SET ATTENTION MASK (R176). -/
def execSetAttentionMask (p : Port) (sources : BitVec 16) (drive : Byte) (s : State) : Answer :=
  request p (.setAttentionMask p sources drive) (ownerMask p sources drive.toNat) s

/-! ### Capture and reset (R177, R178, R153) -/

/-- R177: the record is written whole, then the port's worst lateness is zeroed where bit 0 of the flag asks. -/
def ownerCapture (p : Port) (flag : Byte) (s : State) : State × Response :=
  let s := writeBytes (captureBase p) (captureRecord p s) s
  taken { s with ports := s.ports.modify p fun x => { x with worst := if flag.getLsbD 0 then 0 else x.worst } }

/-- CAPTURE (R177). -/
def execCapture (p : Port) (flag : Byte) (s : State) : Answer := request p (.capture p flag) (ownerCapture p flag) s

/-- SOFT RESET (R178): every block is reset, then the directive is derived, which may raise DIRECTIVE (R2). -/
def execSoftReset (p : Port) (s : State) : Answer :=
  request p (.softReset p) (fun t => taken (rederive (softBlocks t))) s

/-- PIN_RESET (R153 and the reset values of every block): the settings load begins.  The record memory and the settings
memory are kept (assumption log 9); a store in progress is abandoned (R166). -/
def execPinReset (s : State) : Answer :=
  let a := abandonStore s
  .next { State.reset with mem := s.mem, settings := a.settings, freeDraws := a.freeDraws, pending := s.pending }

end Sys2Proof.Machine
end

