-- ==== Sys2Proof/Machine/TableCommands.lean ====
section
/-! DEFINITION. The meanings of the requests and events the Table Store owns (chapter 9). -/

namespace Sys2Proof.Machine

/-! ### APPLY TABLES (R158, R159) -/

/-- R114, R158: the roll states in which a changed K is taken. -/
def RollState.allowsSlotChange : RollState → Bool
  | .empty | .ready | .paused | .ended => true
  | .leader | .playing | .starved | .seeking | .preroll | .stepping => false

/-- R158, test 3. -/
def slotChangeRefused (staged : Nat) (s : State) : Bool :=
  staged != s.tables.live.drive.k && (!s.clock.state.allowsSlotChange || decide (staged < s.drive.busy.length))

/-- R158, test 4: the lowest output whose staged place differs from its live one. -/
def firstMoved (area : List Byte) (s : State) : Option Nat :=
  (List.range 90).find? fun o => (mapEntry area o).getD .unused != vget s.tables.live.map o .unused

/-- R159: the tables are made live and the generation rises. -/
def applyArea (area : List Byte) (s : State) : State :=
  let s := tablesLive area s
  { s with tables := { s.tables with generation := (s.tables.generation + 1) % 65536 } }

/-- A refusal that names a table and an entry (R185). -/
def refuseEntry (st : Status) (table entry : Nat) (s : State) : State × Response :=
  (s, ⟨st, natBytes 1 table ++ natBytes 1 entry⟩)

/-- R158, tests 4 on: the channel map, then the tables are made live. -/
def applyMap (area : List Byte) (s : State) : State × Response :=
  match firstMoved area s with
  | some o =>
    if s.clock.state = .empty then
      let t := applyArea area s
      (t, ⟨.done, natBytes 2 t.tables.generation⟩)
    else refuseEntry .refusedState 6 o s
  | none =>
    let t := applyArea area s
    (t, ⟨.done, natBytes 2 t.tables.generation⟩)

/-- R158, in its order of tests. -/
def ownerApply (s : State) : State × Response :=
  if s.tables.link.storeBusy then refuse .refusedBusy s
  else
    let area := stagedArea s
    match firstInvalid area with
    | some (table, entry) => refuseEntry .refusedTable table entry s
    | none => if slotChangeRefused (decodeDrive area).k s then refuseEntry .refusedState 4 0 s else applyMap area s

/-- APPLY TABLES (R158). -/
def execApplyTables (p : Port) (s : State) : Answer := request p (.applyTables p) ownerApply s

/-! ### Storing (R164) -/

def ownerStore (s : State) : State × Response :=
  if s.tables.link.storeBusy then refuse .refusedBusy s
  else
    taken
      { s with
        tables :=
          { s.tables with
            link := .storing
            lastStore := .none
            storeCopy := settingsImage s.tables.generation (stagedArea s) } }

/-- STORE SETTINGS (R164). -/
def execStoreSettings (p : Port) (s : State) : Answer := request p (.storeSettings p) ownerStore s

/-- STORE_WRITE_DONE (R164): in STORING, the copy has been written and is to be verified, or a transfer failed after
some bytes and the store ends.  In any other link state no writing phase ends and nothing happens (log 7). -/
def execStoreWriteDone (failedAt : Option Nat) (s : State) : Answer :=
  match s.tables.link, failedAt with
  | .storing, none =>
    let t := writeSettings s.tables.storeCopy.length s
    .next { t with tables := { t.tables with link := .verifying } }
  | .storing, some k => .next (endStore .verifyFailed (writeSettings k s))
  | .idle, _ | .loading, _ | .verifying, _ => .next s

/-- STORE_VERIFY_DONE (R164): in VERIFYING, every transfer completed and every byte read equals the copy, or not. -/
def execStoreVerifyDone (complete : Bool) (noise : List Host.Cell) (s : State) : Answer :=
  match s.tables.link with
  | .verifying =>
    .next (endStore (if complete && lineBytes s noise == s.tables.storeCopy then .ok else .verifyFailed) s)
  | .idle | .loading | .storing => .next s

/-! ### Loading (R161, R163) -/

def ownerReload (s : State) : State × Response :=
  if s.tables.link.storeBusy then refuse .refusedBusy s
  else if s.clock.state ≠ .empty ∨ s.drive.busy ≠ [] then refuse .refusedState s
  else taken { s with tables := { s.tables with link := .loading } }

/-- RELOAD SETTINGS (R163). -/
def execReloadSettings (p : Port) (s : State) : Answer := request p (.reloadSettings p) ownerReload s

/-- SETTINGS_LOAD_COMPLETE (R161): in LOADING, the load ends with what the settings line delivered. -/
def execSettingsLoadComplete (complete : Bool) (noise : List Host.Cell) (s : State) : Answer :=
  match s.tables.link with
  | .loading => .next (finishLoad complete (lineBytes s noise) s)
  | .idle | .storing | .verifying => .next s

end Sys2Proof.Machine
end

