-- ==== Sys2Proof/Machine/Dispatch.lean ====
section
/-! DEFINITION. The meaning of every command, one arm for each row of the opcode table. -/

namespace Sys2Proof.Machine

def exec (i : Instr) (s : State) : Host.Outcome State Fault Refusal :=
  match i with
  | .pinReset => Sys2Proof.Machine.execPinReset s
  | .settingsLoadComplete complete noise => Sys2Proof.Machine.execSettingsLoadComplete complete noise s
  | .storeWriteDone failedAt => Sys2Proof.Machine.execStoreWriteDone failedAt s
  | .storeVerifyDone complete noise => Sys2Proof.Machine.execStoreVerifyDone complete noise s
  | .fetch p n => Sys2Proof.Machine.execFetch p n s
  | .frameFault p bytes => Sys2Proof.Machine.execFrameFault p bytes s
  | .read p addr count => Sys2Proof.Machine.execRead p addr count s
  | .readOn p count => Sys2Proof.Machine.execReadOn p count s
  | .write p addr data => Sys2Proof.Machine.execWrite p addr data s
  | .readStatus p => Sys2Proof.Machine.execReadStatus p s
  | .clearAttention p sources => Sys2Proof.Machine.execClearAttention p sources s
  | .setAttentionMask p sources drive => Sys2Proof.Machine.execSetAttentionMask p sources drive s
  | .capture p flag => Sys2Proof.Machine.execCapture p flag s
  | .softReset p => Sys2Proof.Machine.execSoftReset p s
  | .attachRing p base q policy => Sys2Proof.Machine.execAttachRing p base q policy s
  | .intakeResume p => Sys2Proof.Machine.execIntakeResume p s
  | .load p => Sys2Proof.Machine.execLoad p s
  | .play p => Sys2Proof.Machine.execPlay p s
  | .pause p => Sys2Proof.Machine.execPause p s
  | .stop p => Sys2Proof.Machine.execStop p s
  | .tempo p perMille => Sys2Proof.Machine.execTempo p perMille s
  | .stepModeOn p => Sys2Proof.Machine.execStepModeOn p s
  | .stepModeOff p => Sys2Proof.Machine.execStepModeOff p s
  | .step p count => Sys2Proof.Machine.execStep p count s
  | .seek p target autoPlay => Sys2Proof.Machine.execSeek p target autoPlay s
  | .trim p gain balance => Sys2Proof.Machine.execTrim p gain balance s
  | .transpose p semitones => Sys2Proof.Machine.execTranspose p semitones s
  | .pedalOverride p pedal mode => Sys2Proof.Machine.execPedalOverride p pedal mode s
  | .restartChain p chain => Sys2Proof.Machine.execRestartChain p chain s
  | .frameCrc p chain count => Sys2Proof.Machine.execFrameCrc p chain count s
  | .testPulse p output pw10 => Sys2Proof.Machine.execTestPulse p output pw10 s
  | .applyTables p => Sys2Proof.Machine.execApplyTables p s
  | .storeSettings p => Sys2Proof.Machine.execStoreSettings p s
  | .reloadSettings p => Sys2Proof.Machine.execReloadSettings p s
  | .consumptionEvent => Sys2Proof.Machine.execConsumptionEvent s
  | .starvation => Sys2Proof.Machine.execStarvation s
  | .endOfRoll => Sys2Proof.Machine.execEndOfRoll s
  | .cueFire => Sys2Proof.Machine.execCueFire s
  | .handOn => Sys2Proof.Machine.execHandOn s
  | .frameBuild => Sys2Proof.Machine.execFrameBuild s
  | .echoReceived chain seq check framed => Sys2Proof.Machine.execEchoReceived chain seq check framed s
  | .gapCountdownExpiry key => Sys2Proof.Machine.execGapCountdownExpiry key s
  | .slotFree output => Sys2Proof.Machine.execSlotFree output s
  | .pulseEnd key => Sys2Proof.Machine.execPulseEnd key s
  | .kickEnd pd => Sys2Proof.Machine.execKickEnd pd s
  | .easeStep pd => Sys2Proof.Machine.execEaseStep pd s
  | .frameCrcDone => Sys2Proof.Machine.execFrameCrcDone s

end Sys2Proof.Machine
end

