-- ==== Sys2Proof/Machine/Timing.lean ====
section
/-! DEFINITION. What the part does with no command waiting (assumption log 4): the event of its own that is due at this
instant, or one period of CLKIN. -/

namespace Sys2Proof.Machine

/-- A frame build follows each 16 000 periods of CLKIN (R109; 16 MHz, section 12.8). -/
def drivePeriod : Nat := 16000

/-- Whether P stands at a line's position in PLAYING. -/
def playsAt (line : Nat) (s : State) : Bool := s.clock.state == .playing && s.clock.p == line * 256

/-- The event of the part itself that is due at this instant, if any.  Where several are due the manual lets any be first
(R9, R13, R180); the order here is a DESIGN CHOICE (assumption log 4). -/
def internalEvent (s : State) : Option Instr :=
  if someEligible s then some .handOn
  else if s.clock.endLine.any fun e => playsAt e s then some .endOfRoll
  else if playsAt s.clock.nIn s then some .starvation
  else if consumable s then some .consumptionEvent
  else if drivePeriod ≤ s.timing.phase then some .frameBuild
  else none

/-- One line fraction in the units of `Timing.part`: a second has 16·10⁶ periods, and P gains 16 · v_cmd16 · (10⁶ + c)/10⁶
fractions in it (R8). -/
def fractionUnits : Nat := 1000000000000

/-- P takes the next line fraction, with `part` gained towards the one after.  In that same event the cues it crosses fire
(R8, R140), and where play then stands at E·256 or N_in·256 the roll ends or starves there (R13, R18), so that no PAUSE
finds play standing at either (R9; the order is that of assumption log 4). -/
def nextFraction (part : Nat) (s : State) : State :=
  let crossed := crossings s s.clock.p (s.clock.p + 1)
  let t := advanceTo (s.clock.p + 1) s
  let t := { t with timing := { t.timing with part := part } }
  if crossed = [] ∧ atBoundary t = false then t else settle (meetBoundary (fireCues crossed t))

/-- R8: in PLAYING, one period's share of the advance; P takes the next fraction when a whole one has been gained. -/
def advance (s : State) : State :=
  match s.clock.state with
  | .playing =>
    let gained := s.timing.part + s.timing.rate
    if fractionUnits ≤ gained then nextFraction (gained - fractionUnits) s
    else { s with timing := { s.timing with part := gained } }
  | .empty | .leader | .ready | .starved | .paused | .seeking | .preroll | .stepping | .ended => s

/-- One period of CLKIN. -/
def clockTick (s : State) : State :=
  advance { s with timing := { s.timing with phase := s.timing.phase + 1 } }

end Sys2Proof.Machine
end

