-- ==== Sys2Proof/Machine/Step.lean ====
section
/-! DEFINITION. One step of the part: the command at the front of the queue, or, with none waiting, the part's own time. -/

namespace Sys2Proof.Machine

/-- What the part does with no command waiting (assumption log 4). -/
def idle (s : State) : Host.Outcome State Fault Refusal :=
  match internalEvent s with
  | some c => exec c s
  | none => .next (clockTick s)

/-- One step. -/
def step (s : State) : Host.Outcome State Fault Refusal :=
  match s.pending with
  | c :: rest => exec c { s with pending := rest }
  | [] => idle s

/-- `s` with a command at the front of its queue. -/
def State.withCommand (s : State) (c : Instr) : State := { s with pending := c :: s.pending }

/-- `s` with the command that a word spells at the front of its queue; `s` where the word spells none, which is every
word (assumption log 8). -/
def State.withFetchWord (s : State) (nbits w : Nat) : State :=
  match decodeTableWord nbits w with
  | some c => s.withCommand c
  | none => s

end Sys2Proof.Machine
end

