-- ==== Sys2Proof/WellFormed.lean ====
section
/-! DEFINITION. Which terms of `Instr` stand for a command of the part: a request whose payload has the shape R185
gives it, a FRAME_FAULT whose bytes are indeed refused at the port, and events whose operands lie in their ranges.
The meanings are total and do not rest on it; it says which terms the wire and the links can produce. -/

namespace Sys2Proof

/-- The settings image has 2440 bytes (R160). -/
def imageLength : Nat := 2440

/-- Well-formed commands. -/
def Instr.wf : Instr → Bool
  | .settingsLoadComplete _ noise => noise.all fun c => c.1 < imageLength
  | .storeWriteDone failedAt => failedAt.all fun k => k < imageLength
  | .storeVerifyDone _ noise => noise.all fun c => c.1 < imageLength
  | .frameFault p bytes =>
    match judgeTransfer p bytes with
    | .nothing | .frameFault | .unknownRequest | .badShape _ => true
    | .fetch _ | .request _ => false
  | .write _ _ data => 1 ≤ data.length && data.length ≤ 64
  | .setAttentionMask _ _ drive => drive.toNat ≤ 1
  | .pedalOverride _ pedal mode => pedal.toNat ≤ 1 && mode.toNat ≤ 2
  | .pinReset | .fetch _ _ | .read _ _ _ | .readOn _ _ | .readStatus _ | .clearAttention _ _ | .capture _ _ | .softReset _
  | .attachRing _ _ _ _ | .intakeResume _ | .load _ | .play _ | .pause _ | .stop _ | .tempo _ _ | .stepModeOn _
  | .stepModeOff _ | .step _ _ | .seek _ _ _ | .trim _ _ _ | .transpose _ _ | .restartChain _ _ | .frameCrc _ _ _
  | .testPulse _ _ _ | .applyTables _ | .storeSettings _ | .reloadSettings _ | .consumptionEvent | .starvation
  | .endOfRoll | .cueFire | .handOn | .frameBuild | .echoReceived _ _ _ _ | .gapCountdownExpiry _ | .slotFree _
  | .pulseEnd _ | .kickEnd _ | .easeStep _ | .frameCrcDone => true

end Sys2Proof
end

