-- ==== Sys2Proof/Safety.lean ====
section
/-! DEFINITION. What the claims speak of: the invariants of the part, and what a command leaves as it stood. -/

namespace Sys2Proof.Machine

/-! ### Invariants -/

/-- Both memories are in canonical form and inside their address spaces: 8192 bytes of record memory (R167) and the
2440 bytes of the settings image (R160), which is what a store copy can hold at most. -/
abbrev State.memoryOk (s : State) : Prop :=
  Mem.wf recordFill s.mem ∧ Mem.below recordSize s.mem ∧ Mem.wf settingsFill s.settings ∧ Mem.below imageLength s.settings
    ∧ s.tables.storeCopy.length ≤ imageLength

/-- An attached ring is as ATTACH RING takes it (R25), and the consume index names one of its slots (R23). -/
abbrev State.ringOk (s : State) : Prop :=
  s.intake.attached = true → ringInRange s.intake.base s.intake.q = true ∧ s.intake.index < s.intake.q

/-- P never exceeds N_in·256, and in EMPTY both are 0 (R8); until a line of the roll is read N_in is 0 (R1, R4); in PLAYING
P stands short of N_in·256 and of E·256, since what R13 and R18 begin there belongs to the arrival (R9). -/
abbrev State.positionOk (s : State) : Prop :=
  s.clock.p ≤ s.clock.nIn * 256 ∧ (s.clock.state = .empty → s.clock.p = 0 ∧ s.clock.nIn = 0)
    ∧ (s.clock.lineHeld = false → s.clock.nIn = 0)
    ∧ (s.clock.state = .playing →
        s.clock.p < s.clock.nIn * 256 ∧ ∀ e, s.clock.endLine = some e → s.clock.p < e * 256)

/-- The ranges of the tempo trim, the commanded rate and the servo correction (R3, R11, R12). -/
abbrev State.ratesOk (s : State) : Prop :=
  (500 ≤ s.clock.tau ∧ s.clock.tau ≤ 1500) ∧ (1280 ≤ s.clock.vCmd16 ∧ s.clock.vCmd16 ≤ 19200)
    ∧ (-30000 ≤ s.clock.c ∧ s.clock.c ≤ 30000)

/-- The directive record holds what the Roll Clock's state gives (R20, R21). -/
abbrev State.directiveOk (s : State) : Prop :=
  s.clock.directive.kind = directiveKind s ∧ s.clock.directive.rate = s.clock.vCmd16
    ∧ s.clock.directive.seekStart = directiveStart s

/-- Every output's heat is at most 4000 (R117). -/
abbrev State.heatOk (s : State) : Prop :=
  (∀ c ∈ s.drive.channels.toList, c.heat ≤ 4000) ∧ s.drive.pedalHeat.damper ≤ 4000 ∧ s.drive.pedalHeat.shift ≤ 4000

/-- The owned count of an attached ring is the number of its slots whose OWN flag is set (R26). -/
abbrev State.ownedOk (s : State) : Prop := s.intake.attached = true → s.intake.owned = countOwned s.mem s.intake

/-- The owner count of every key is the number of tracks in SOUNDING or RELEASING whose record names it (R88). -/
abbrev State.ownersOk (s : State) : Prop :=
  ∀ k, k < 88 → (keyRec s k).owners = (List.range 88).countP fun n => (track s n).sounds && (track s n).key == k

/-! ### What requests and staged tables are tested for -/

/-- The least and the greatest payload length of each request, by its code (R185); none for a code that names none. -/
def payloadLengths : Nat → Option (Nat × Nat)
  | 0x04 | 0x08 | 0x11 | 0x20 | 0x21 | 0x22 | 0x23 | 0x25 | 0x26 | 0x50 | 0x51 | 0x52 => some (0, 0)
  | 0x02 | 0x07 | 0x27 | 0x31 | 0x40 => some (1, 1)
  | 0x05 | 0x24 | 0x32 | 0x41 => some (2, 2)
  | 0x01 | 0x06 | 0x42 => some (3, 3)
  | 0x10 | 0x30 => some (4, 4)
  | 0x28 => some (5, 5)
  | 0x03 => some (3, 66)
  | _ => none

/-- Whether the selector bytes of a request name a pedal, a mode or a line drive (R168, test 4). -/
def selectorsNamed (code : Nat) (payload : List Byte) : Prop :=
  match code with
  | 0x06 => (payload.getD 2 0#8).toNat ≤ 1
  | 0x32 => (payload.getD 0 0#8).toNat ≤ 1 ∧ (payload.getD 1 0#8).toNat ≤ 2
  | _ => True

/-- How many entries each staged table has (R154). -/
def entryCount : Nat → Nat
  | 1 => 8
  | 2 => 1
  | 3 => 2
  | 4 => 1
  | 5 => 32
  | 6 => 90
  | 7 => 88
  | _ => 0

/-- The ranges of a profile entry that is checked (R156). -/
def profileValid (p : Profile) : Prop :=
  (1280 ≤ p.vNom16 ∧ p.vNom16 ≤ 19200) ∧ (128 ≤ p.readAhead ∧ p.readAhead ≤ 2048) ∧ p.prime ≤ 2048
    ∧ (30 ≤ p.splitKey ∧ p.splitKey ≤ 60) ∧ (1 ≤ p.onRun ∧ p.onRun ≤ 4) ∧ (1 ≤ p.offRun ∧ p.offRun ≤ 6)
    ∧ (1 ≤ p.stepStable ∧ p.stepStable ≤ 8) ∧ (∀ j, j < 8 → vget p.steps j 0 ≤ 1023)
    ∧ (∀ j, j < 7 → vget p.steps j 0 ≤ vget p.steps (j + 1) 0) ∧ p.wMax ≤ 1023
    ∧ ∀ r ∈ [p.upSlow, p.upFast, p.downSlow, p.downFast], 10 ≤ r ∧ r ≤ 5000

/-- Whether entry `i` of a staged table passes validation, by the table's number (R156, R157). -/
def entryValid (area : List Byte) (table i : Nat) : Prop :=
  match table with
  | 1 =>
    let p := decodeProfile area i
    (i ≠ 0 → p.valid ≤ 1) ∧ (i = 0 ∨ p.valid = 1 → profileValid p)
  | 3 =>
    let e := decodePedal area i
    (10 ≤ e.figures.kickTime ∧ e.figures.kickTime ≤ 200) ∧ (1 ≤ e.figures.easeStep ∧ e.figures.easeStep ≤ 64)
      ∧ (1 ≤ e.figures.easeInterval ∧ e.figures.easeInterval ≤ 20) ∧ e.liftLead ≤ 1500 ∧ e.dropLead ≤ 1500
  | 4 =>
    let d := decodeDrive area
    (4 ≤ d.k ∧ d.k ≤ 16) ∧ (1 ≤ d.cooling ∧ d.cooling ≤ 50) ∧ 1000 ≤ d.hWarn ∧ d.hWarn ≤ d.hLim ∧ d.hLim ≤ 3999
  | 5 =>
    let d := decodeCue area i
    ∃ a, decodeCueAction (field (cueBytes area i) 8 1) = some a
      ∧ (a ≠ .none → 64 ≤ d.line) ∧ (a = .loop → d.target ≠ d.line)
  | 6 => ∃ pl, mapEntry area i = some pl ∧ (pl = .unused ∨ ∀ j, j < i → mapEntry area j ≠ some pl)
  | 7 =>
    let v := decodeVoicing area i
    (100 ≤ v.e0 ∧ v.e0 ≤ 4000) ∧ (v.e0 + 100 ≤ v.e1 ∧ v.e1 ≤ 8000) ∧ (200 ≤ v.tSoft ∧ v.tSoft ≤ 2000)
      ∧ (50 ≤ v.tLoud ∧ v.tLoud ≤ 600) ∧ v.tLoud ≤ v.tSoft ∧ v.dampLead ≤ 800 ∧ (100 ≤ v.rgap ∧ v.rgap ≤ 1000)
  | _ => True

/-! ### Lines read -/

/-- The slot at the consume index is read as the lines from the expected line up to `last`: in sequence, as a gap of one
to four lines, or as a held line under HOLD (R31, R34, R36). -/
def readsUpTo (s : State) (last : Nat) : Prop :=
  let slot := slotBytes s s.intake.index
  if slotCheckOk slot = true then
    slotNumber slot = last ∧ expectedLine s ≤ last ∧ last ≤ expectedLine s + 4
  else s.intake.policy = .hold ∧ last = expectedLine s

/-- What the event that reads the lines up to `last` records, whatever the roll state (R6, R24, R29, R31, R36, R43). -/
def tookLines (last : Nat) (s t : State) : Prop :=
  let slot := slotBytes s s.intake.index
  let control := slotControl s s.intake.index
  let x := expectedLine s
  let ok := slotCheckOk slot
  t.clock.nIn = last ∧ t.clock.lineHeld = true ∧ t.intake.state = .running
    ∧ t.intake.lastImage = (if ok then slotImage slot else s.intake.lastImage)
    ∧ t.intake.linesConsumed = min (s.intake.linesConsumed + (last + 1 - x)) 4294967295
    ∧ t.intake.gapsFilled = (if last = x then s.intake.gapsFilled else min (s.intake.gapsFilled + (last - x)) 65535)
    ∧ t.intake.damaged = (if ok then s.intake.damaged else min (s.intake.damaged + 1) 65535)
    ∧ t.intake.duplicates = s.intake.duplicates
    ∧ readByte t (slotAddr s.intake s.intake.index + 19)
      = statusByte (if ok = false then .damagedHeld else if last = x then .consumed else .gapFilled)
          (slotWrap control != decide (s.intake.index + 1 = s.intake.q))

/-- The line a slot read as one line gives: its own, or the last image under the expected number (R29, R31). -/
def lineRead (s : State) : Line :=
  let slot := slotBytes s s.intake.index
  if slotCheckOk slot = true then ⟨slotNumber slot, slotImage slot, .scanned⟩
  else ⟨expectedLine s, s.intake.lastImage, .held⟩

/-- What the filter of a track makes of a line (R48). -/
def trackEvent (s : State) (ln : Line) (tr : Nat) : FilterEvent :=
  ((vget s.reading.filters tr .closed).sample s.reading.onRun s.reading.offRun ln.number (ln.image.getLsbD tr)).2

/-- The Scheduler of `u` takes what a pedal's track makes of a line (R92). -/
def pedalEvent (pd : Pedal) (ev : FilterEvent) (u : State) : State :=
  match ev with
  | .onset line => pedalOnset pd line u
  | .close line => pedalClose pd line u
  | .none | .speck | .bridged => u

/-- The Scheduler of `u` takes what roll note track `n` makes of a line (R89, R91). -/
def noteEvent (n : Nat) (ev : FilterEvent) (u : State) : State :=
  match ev with
  | .onset line => noteOnset n line u
  | .close line => noteClose n line u
  | .none | .speck | .bridged => u

/-- R47 step 5, R54: the onsets and closes that the filters of `s` produce on a line reach the Scheduler of `u` in track
order: DAMPER's track 5, the note tracks 6 to 93 as roll note tracks 0 to 87, SHIFT's track 94. -/
def eventsPassed (s : State) (ln : Line) (u : State) : State :=
  let notes := (List.range 88).foldl (fun v n => noteEvent n (trackEvent s ln (n + 6)) v)
    (pedalEvent .damper (trackEvent s ln 5) u)
  pedalEvent .shift (trackEvent s ln 94) notes

/-- What an entry is created with: its content, due position and sequence number (R93). -/
def Entry.made (e : Entry) : EntryBody × Nat × Nat := (e.body, e.due, e.seq)

/-! ### Frames

A frame is said as an equation between two states with the pieces put aside that a command may change: the fields put
aside stand at fixed values on both sides, so the equation says that every other field is as it was. -/

/-- The response a port holds. -/
def State.answer (s : State) (p : Port) : Option Response := (s.ports.get p).response

/-- Requests are answered: no settings load is in progress (R161). -/
abbrev State.takesRequests (s : State) : Prop := s.tables.link ≠ .loading

/-- A port record with what a transfer writes put aside: the gathered bytes, the response and the bytes clocked out. -/
def PortRec.transferAside (r : PortRec) : PortRec := { r with assembler := [], response := none, sdo := [] }

/-- `s` with what a transfer at port `p` writes put aside. -/
def State.transferAside (p : Port) (s : State) : State := { s with ports := s.ports.modify p PortRec.transferAside }

/-- `t` is `s` but for the answer at port `p`. -/
def sameButAnswer (p : Port) (s t : State) : Prop := t.transferAside p = s.transferAside p

/-- `s` with the pieces put aside that every event may touch at its end beside its own effect: entries are handed on
(R96), which may lift a pedal (R130), and the directive is rewritten with DIRECTIVE attention (R21). -/
def State.settleAside (s : State) : State :=
  { s with
    sched := { s.sched with timeline := [], restrikes := 0 }
    pedals := s.pedals.map fun r => { r with state := .rest, roll := .up }
    clock := { s.clock with directive := ⟨.stop, 0, 0, 0#8⟩ }
    ports := s.ports.map fun r => { r with pending := r.pending ||| Attention.directive.set } }

/-- `t` is `s` but for what settling touches. -/
def sameButSettled (s t : State) : Prop := t.settleAside = s.settleAside

/-- `t` is `s` but for what settling touches and the answer at port `p`. -/
def sameButSettledAnswer (p : Port) (s t : State) : Prop :=
  (t.transferAside p).settleAside = (s.transferAside p).settleAside

/-- `s` with the pieces put aside that the movement of play touches: the Roll Clock, the time, the Scheduler, the pedals,
the test pulse and the pending sets. -/
def State.playAside (s : State) : State :=
  { s with
    clock := RollClock.reset
    timing := Timing.reset
    sched := Scheduler.reset
    pedals := ⟨PedalRec.reset, PedalRec.reset⟩
    test := TestPulse.reset
    ports := s.ports.map fun r => { r with pending := 0#16 } }

/-- `t` is `s` but for what the movement of play touches. -/
def sameBeyondPlay (s t : State) : Prop := t.playAside = s.playAside

/-- `t` is `s` but for what the movement of play touches and the answer at port `p`. -/
def sameBeyondPlayAnswer (p : Port) (s t : State) : Prop :=
  (t.transferAside p).playAside = (s.transferAside p).playAside

/-- Every byte of record memory at an address that satisfies `q` reads as before. -/
def memoryKept (q : Nat → Prop) (s t : State) : Prop := ∀ a, q a → readByte t a = readByte s a

/-- Addresses outside the `n` bytes from `a` on. -/
def outsideBlock (a n : Nat) (x : Nat) : Prop := x < a ∨ a + n ≤ x

/-- An attention source stands in both pending sets. -/
def attended (a : Attention) (s : State) : Prop := ∀ p, (s.ports.get p).pending &&& a.set = a.set

/-- Both pedals are at REST with duty 0 (R135). -/
def pedalsRest (s : State) : Prop := ∀ pd, (s.pedals.get pd).state = .rest ∧ (s.pedals.get pd).duty = 0

/-- The Timeline is empty and every track SILENT (R103, R104); the key of a SILENT track, which means nothing (R85), stands
at 0 (the model's choice, log 3). -/
def scheduleClear (s : State) : Prop :=
  s.sched.timeline = [] ∧ s.sched.nextSeq = 0 ∧ ∀ n, n < 88 → track s n = TrackRec.silent

/-- No key has an owner (R103, R104). -/
def ownersClear (s : State) : Prop := ∀ k, k < 88 → (keyRec s k).owners = 0

/-- What R103 does to the key records: no key has an owner or an issue position left, and one that had an owner has its OFF
to be recorded at the next frame build. -/
def keysCleared (s t : State) : Prop := ∀ k, k < 88 →
  keyRec t k
    = { keyRec s k with
        owners := 0, lastPos := none, offDue := (keyRec s k).offDue || decide (1 ≤ (keyRec s k).owners) }

/-- Whether a release is the one that the note in force of a sounding track of `s` is paired with (R101). -/
def marksRelease (s : State) (b : ReleaseBody) : Bool :=
  (track s b.track).sounds && (track s b.track).inForce == some b.paired

/-- Whether `n` bytes from `a` on lie inside the region a port may write (R173). -/
abbrev inOwnRegion (p : Port) (a n : Nat) : Prop :=
  match p with
  | .s => a + n ≤ 0x0C00
  | .c => 0x0C00 ≤ a

/-- What R171 says of a command that reads `count` bytes from address `a` at port `p`: in range it answers DONE with the
bytes and the window pointer stands past them; out of range it is refused and the pointer stays. -/
def readsFrom (p : Port) (c : Instr) (a count : Nat) (s : State) : Prop :=
  (1 ≤ count ∧ count ≤ 64 ∧ a + count ≤ 0x2000 →
      ∃ t, exec c s = .next t
        ∧ t.answer p = some ⟨.done, (List.range count).map fun k => readByte s (a + k)⟩
        ∧ sameButAnswer p { s with ports := s.ports.modify p fun r => { r with window := a + count } } t)
    ∧ (¬(1 ≤ count ∧ count ≤ 64 ∧ a + count ≤ 0x2000) →
      ∃ t, exec c s = .next t ∧ t.answer p = some ⟨.refusedRange, []⟩ ∧ sameButAnswer p s t)

/-- What a refused request does: its answer, and nothing else (R170). -/
def refusedWith (p : Port) (c : Instr) (st : Status) (s : State) : Prop :=
  ∃ t, exec c s = .next t ∧ t.answer p = some ⟨st, []⟩ ∧ sameButAnswer p s t

end Sys2Proof.Machine
end

