-- ==== Sys2Proof/Certificates/Slice0/Obligations.lean ====
section
/-! DEFINITION. What is claimed of the model. -/

open Sys2Proof Sys2Proof.Machine

/-! ### The queue, time and reset -/

/-- A step with a command at the front of the queue is that command on the rest (the queue is the model's, log 8). -/
def Obligations.StepRunsTheFrontCommand : Prop :=
  (∀ (c : Instr) (rest : List Instr) (s : State), s.pending = c :: rest → step s = exec c { s with pending := rest })
    ∧ ∀ (c : Instr) (s : State), step (s.withCommand c) = exec c s

/-- With no command waiting a step is the part's own event that is due, or one period of CLKIN (the model's choice,
assumption log 4).  In PLAYING with nothing due, P gains v_cmd16 · (10⁶ + c) parts in 10¹² of a line fraction each period
(R8 in the model's units), and takes the next fraction when a whole one has been gained; the cues that this crosses fire
there, in the same step (log 17), and play that so comes to E·256 ends there and to N_in·256 starves there, in that same
step (R9, R13, R18; the order of the three is the model's, log 4).  The event that is due is, in this order of the model's
(log 4): a hand-on where an entry is eligible (R96), the end of the roll or a starvation where play stands at it, a
consumption event where the slot at the consume index can be consumed (R27, R28), a frame build where the drive period of
16 000 periods has passed (R109). -/
def Obligations.IdleStepTakesTheDueEventOrATick : Prop :=
  (∀ (s : State) (c : Instr), s.pending = [] → internalEvent s = some c → step s = exec c s)
    ∧ (∀ s : State,
        let headed := refreshHeads s
        let hands := ∃ e ∈ headed.sched.timeline, eligible headed e = true
        let atEnd := s.clock.state = .playing ∧ ∃ e, s.clock.endLine = some e ∧ s.clock.p = e * 256
        let atLast := s.clock.state = .playing ∧ s.clock.p = s.clock.nIn * 256
        (hands → internalEvent s = some .handOn)
          ∧ (¬hands → atEnd → internalEvent s = some .endOfRoll)
          ∧ (¬hands → ¬atEnd → atLast → internalEvent s = some .starvation)
          ∧ (¬hands → ¬atEnd → ¬atLast → consumable s = true → internalEvent s = some .consumptionEvent)
          ∧ (¬hands → ¬atEnd → ¬atLast → consumable s = false →
              (16000 ≤ s.timing.phase → internalEvent s = some .frameBuild)
                ∧ (s.timing.phase < 16000 → internalEvent s = none)))
    ∧ ∀ s : State, s.pending = [] → internalEvent s = none →
        let rate := s.clock.vCmd16 * (1000000 + s.clock.c).toNat
        let left := s.timing.part + s.timing.rate - 1000000000000
        ∃ t, step s = .next t
          ∧ (s.clock.state ≠ .playing → t = { s with timing := { s.timing with phase := s.timing.phase + 1 } })
          ∧ (s.clock.state = .playing → s.timing.part + s.timing.rate < 1000000000000 →
              t = { s with
                timing := { s.timing with phase := s.timing.phase + 1, part := s.timing.part + s.timing.rate } })
          ∧ (s.clock.state = .playing → 1000000000000 ≤ s.timing.part + s.timing.rate →
              let x := s.clock.p + 1
              let crossed := crossings s s.clock.p x
              let moved := { s with
                clock := { s.clock with p := x }
                timing := { s.timing with phase := s.timing.phase + 1, rate := rate, part := left } }
              let ends := ∃ e, s.clock.endLine = some e ∧ e * 256 ≤ x
              let starves := s.clock.nIn * 256 ≤ x
              (crossed = [] → ¬ends → ¬starves → t = moved)
                ∧ (crossed ≠ [] ∨ ends ∨ starves → t = settle (meetBoundary (fireCues crossed moved)))
                ∧ (crossed = [] → ¬ends → starves →
                    t.clock.state = .starved ∧ t.clock.p = s.clock.nIn * 256 ∧ t.clock.c = 0 ∧ attended .starved t
                      ∧ t.clock.starvations = min (s.clock.starvations + 1) 65535)
                ∧ ∀ e, crossed = [] → s.clock.endLine = some e → e * 256 ≤ x →
                    t.clock.state = .ended ∧ t.clock.p = e * 256 ∧ attended .ended t)

/-- No command stops the part, and none touches the queue. -/
def Obligations.EveryCommandAnswersNext : Prop :=
  (∀ (c : Instr) (s : State), ∃ t, exec c s = .next t ∧ t.pending = s.pending) ∧ ∀ s : State, ∃ t, step s = .next t

/-- The state right after pin reset (the middle columns of R1, R23, R44, R65, R84, R106, R108, R127, R138, R144, R153, R167,
R179). -/
def Obligations.ResetHoldsTheStatedValues : Prop :=
  let s := State.reset
  (s.clock.state = .empty ∧ s.clock.p = 0 ∧ s.clock.nIn = 0 ∧ s.clock.lineHeld = false ∧ s.clock.signatureTaken = false
      ∧ s.clock.vNom16 = 7680 ∧ s.clock.readAhead = 512 ∧ s.clock.tau = 1000 ∧ s.clock.vCmd16 = 7680 ∧ s.clock.c = 0
      ∧ s.clock.endLine = none ∧ s.clock.backedUp = false ∧ s.clock.autoPlay = false
      ∧ s.clock.directive = ⟨.stop, 7680, 0, 0#8⟩ ∧ s.clock.starvations = 0 ∧ s.clock.discontinuities = 0)
    ∧ (s.intake.attached = false ∧ s.intake.base = 0 ∧ s.intake.q = 0 ∧ s.intake.policy = .hold ∧ s.intake.index = 0
      ∧ s.intake.owned = 0 ∧ s.intake.lastImage = 0#104 ∧ s.intake.state = .running ∧ s.intake.endStop = false
      ∧ s.intake.linesConsumed = 0 ∧ s.intake.gapsFilled = 0 ∧ s.intake.damaged = 0 ∧ s.intake.duplicates = 0)
    ∧ ((∀ f ∈ s.reading.filters.toList, f = .closed) ∧ s.reading.debouncers = ⟨⟨none, 0⟩, ⟨none, 0⟩⟩
      ∧ s.reading.history = [] ∧ s.reading.signature = 0xFFFF#16 ∧ s.reading.signatureValid = true ∧ s.reading.onRun = 2
      ∧ s.reading.offRun = 3 ∧ s.reading.stepStable = 3 ∧ s.reading.leaderMask = BitVec.ofNat 104 (2 ^ 100 - 1)
      ∧ s.reading.specks = 0)
    ∧ (s.expr.b = ⟨0, 0⟩ ∧ s.expr.w256 = ⟨0, 0⟩ ∧ s.expr.level = ⟨120, 120⟩ ∧ s.expr.gain = 128 ∧ s.expr.balance = 0
      ∧ s.expr.splitKey = 44 ∧ s.expr.steps = #v[120, 200, 280, 360, 440, 520, 600, 680] ∧ s.expr.wMax = 280
      ∧ s.expr.upSlow = 200 ∧ s.expr.upFast = 1400 ∧ s.expr.downSlow = 300 ∧ s.expr.downFast = 1400)
    ∧ (scheduleClear s ∧ (∀ r ∈ s.sched.keys.toList, r.owners = 0 ∧ r.last = .none ∧ r.countdown = 0)
      ∧ s.sched.transposition = 0 ∧ s.sched.lateStrikes = 0 ∧ s.sched.staleDrops = 0 ∧ s.sched.restrikes = 0)
    ∧ (s.drive.busy = [] ∧ s.drive.thermalCaps = 0 ∧ s.drive.suppressed = 0
      ∧ (∀ c ∈ s.drive.channels.toList, c.state = .off ∧ c.heat = 0) ∧ s.drive.pedalHeat = ⟨0, 0⟩
      ∧ ∀ c ∈ s.drive.chains.toList,
          c.state = .probing ∧ c.goodRun = 0 ∧ c.badRun = 0 ∧ c.seq = 0#8 ∧ c.lastSent = none ∧ c.echo = .none)
    ∧ (s.check.left = 0 ∧ s.check.register = 0xFFFF#16 ∧ s.check.result = 0#16 ∧ s.check.done = false
      ∧ s.test.phase = .none)
    ∧ (∀ pd, (s.pedals.get pd).state = .rest ∧ (s.pedals.get pd).roll = .up ∧ (s.pedals.get pd).override = .roll
      ∧ (s.pedals.get pd).ownRequest = false ∧ (s.pedals.get pd).duty = 0
      ∧ (s.pedals.get pd).figures = ⟨255, 60, 8, 5, 110⟩ ∧ (s.pedals.get pd).countdown = 0)
    ∧ ((∀ q ∈ s.cues.live.toList, q.action = .none ∧ q.armed = false ∧ q.hits = 0) ∧ s.cues.last = none)
    ∧ (s.seek.target = 0 ∧ s.seek.start = 0 ∧ s.seek.prime = 512 ∧ s.seek.shorts = 0)
    ∧ (s.tables.generation = 0 ∧ s.tables.appliedProfile = 0 ∧ s.tables.link = .loading ∧ s.tables.storeCopy = []
      ∧ s.tables.lastStore = .none ∧ s.tables.live = Tables.builtIn)
    ∧ ∀ p, (s.ports.get p).assembler = [] ∧ (s.ports.get p).response = none ∧ (s.ports.get p).window = 0
        ∧ (s.ports.get p).pending = 0#16 ∧ (s.ports.get p).mask = 0#16 ∧ (s.ports.get p).drive = .openDrain
        ∧ (s.ports.get p).worst = 0

/-- PIN_RESET leaves every block at its pin-reset values with the settings load begun (R153); the record memory and, where
no store was being written, the settings memory are kept (the model's reading, assumption log 9). -/
def Obligations.PinResetRestoresEveryBlock : Prop :=
  ∀ s : State, ∃ t, exec .pinReset s = .next t
    ∧ t = { State.reset with mem := s.mem, settings := t.settings, freeDraws := t.freeDraws, pending := s.pending }
    ∧ (s.tables.link ≠ .storing → t.settings = s.settings ∧ t.freeDraws = s.freeDraws)

/-- SOFT RESET (R178 and the last columns of the records it names): what it restores, and what it keeps.  How much of a
store's copy the settings memory then holds is a free value (log 6), so nothing is said of it where one was written.  The
checked chain of the frame-CRC record, which no rule gives a reset value, is 0 (the model's choice, log 3). -/
def Obligations.SoftResetRestoresTheBlocks : Prop :=
  ∀ (p : Port) (s : State), s.takesRequests → ∃ t, exec (.softReset p) s = .next t
    ∧ t.answer p = some ⟨.done, []⟩ ∧ t.answer p.other = none
    ∧ (t.clock.state = .empty ∧ t.clock.p = 0 ∧ t.clock.nIn = 0 ∧ t.clock.c = 0 ∧ t.clock.lineHeld = false
      ∧ t.clock.signatureTaken = false ∧ t.clock.backedUp = false ∧ t.clock.autoPlay = false ∧ t.clock.endLine = none
      ∧ t.clock.starvations = 0 ∧ t.clock.discontinuities = 0 ∧ t.clock.tau = s.clock.tau
      ∧ t.clock.vNom16 = (liveProfile s 0).vNom16 ∧ t.clock.readAhead = (liveProfile s 0).readAhead
      ∧ t.clock.vCmd16 = commandedRate t.clock.vNom16 s.clock.tau
      ∧ t.clock.directive.kind = .stop ∧ t.clock.directive.rate = t.clock.vCmd16 ∧ t.clock.directive.seekStart = 0)
    ∧ (t.seek.target = 0 ∧ t.seek.start = 0 ∧ t.seek.prime = (liveProfile s 0).prime ∧ t.seek.shorts = 0)
    ∧ (∀ q, (t.ports.get q).pending
        = if t.clock.directive = s.clock.directive then 0#16 else Attention.directive.set)
    ∧ t.intake = Intake.reset
    ∧ (t.sched.timeline = [] ∧ t.sched.transposition = 0 ∧ t.sched.lateStrikes = 0 ∧ t.sched.staleDrops = 0
      ∧ t.sched.restrikes = 0 ∧ ownersClear t ∧ scheduleClear t
      ∧ ∀ k, k < 88 → (keyRec t k).countdown = (keyRec s k).countdown ∧ (keyRec t k).last = (keyRec s k).last
          ∧ (keyRec t k).lastPos = none)
    ∧ (t.drive.busy = [] ∧ t.drive.thermalCaps = 0 ∧ t.drive.suppressed = 0
      ∧ (∀ c ∈ t.drive.channels.toList, c.state = .off ∧ c.heat = 0 ∧ c.test = false) ∧ t.drive.pedalHeat = ⟨0, 0⟩
      ∧ ∀ c ∈ t.drive.chains.toList,
          c.state = .probing ∧ c.goodRun = 0 ∧ c.badRun = 0 ∧ c.seq = 0#8 ∧ c.lastSent = none ∧ c.echo = .none)
    ∧ (∀ pd, t.pedals.get pd = PedalRec.reset)
    ∧ (t.expr.gain = 128 ∧ t.expr.balance = 0 ∧ t.expr.b = ⟨0, 0⟩ ∧ t.expr.w256 = ⟨0, 0⟩
      ∧ t.expr.level = ⟨vget (liveProfile s 0).steps 0 0, vget (liveProfile s 0).steps 0 0⟩
      ∧ t.expr.splitKey = (liveProfile s 0).splitKey ∧ t.expr.steps = (liveProfile s 0).steps
      ∧ t.expr.wMax = (liveProfile s 0).wMax ∧ t.expr.upSlow = (liveProfile s 0).upSlow
      ∧ t.expr.upFast = (liveProfile s 0).upFast ∧ t.expr.downSlow = (liveProfile s 0).downSlow
      ∧ t.expr.downFast = (liveProfile s 0).downFast)
    ∧ ((∀ f ∈ t.reading.filters.toList, f = .closed) ∧ t.reading.debouncers = ⟨⟨none, 0⟩, ⟨none, 0⟩⟩
      ∧ t.reading.signature = 0xFFFF#16 ∧ t.reading.signatureValid = true ∧ t.reading.history = [] ∧ t.reading.specks = 0
      ∧ t.reading.onRun = (liveProfile s 0).onRun ∧ t.reading.offRun = (liveProfile s 0).offRun
      ∧ t.reading.stepStable = (liveProfile s 0).stepStable ∧ t.reading.leaderMask = s.tables.live.leaderMask)
    ∧ ((∀ i, i < 32 → cueAt t i = { cueAt s i with armed := (cueAt s i).appliedArmed, hits := 0 }
        ∧ readBytes t (cueCounterAddr i) 2 = [0#8, 0#8]) ∧ t.cues.last = none)
    ∧ (t.tables.live = s.tables.live ∧ t.tables.generation = s.tables.generation ∧ t.tables.appliedProfile = 0
      ∧ t.tables.link = .idle ∧ t.tables.storeCopy = [] ∧ t.tables.lastStore = .none)
    ∧ (s.tables.link ≠ .storing → t.settings = s.settings)
    ∧ (t.check = FrameCheck.reset ∧ t.test.phase = .none)
    ∧ (∀ q, (t.ports.get q).window = 0 ∧ (t.ports.get q).worst = 0 ∧ (t.ports.get q).mask = (s.ports.get q).mask
        ∧ (t.ports.get q).drive = (s.ports.get q).drive)
    ∧ memoryKept (fun a => ∀ i, i < 32 → outsideBlock (cueCounterAddr i) 2 a) s t

/-! ### Transfers -/

/-- Every request frame is judged to be the request it was made from: for each well-formed request command, judging its
bytes gives the command back, every operand with it (R168, R185). -/
def Obligations.RequestFramesAreReadBack : Prop :=
  ∀ (i : Instr) (p : Port) (code : Byte) (payload : List Byte), requestParts i = some (p, code, payload) → i.wf = true →
    judgeTransfer p (encodeRequest i) = .request i

/-- FETCH (R169): the bytes clocked out are the response's, then 0xFF; nothing but what a transfer writes changes, and the
response stays. -/
def Obligations.FetchClocksTheResponseOut : Prop :=
  ∀ (p : Port) (n : Nat) (s : State), ∃ t, exec (.fetch p n) s = .next t
    ∧ (∀ i, i < n → (t.ports.get p).sdo[i]?
        = some (((s.answer p).map Response.bytes).getD [] |>.getD i 0xFF#8))
    ∧ (t.ports.get p).sdo.length = n
    ∧ t.answer p = s.answer p
    ∧ sameButAnswer p s t

/-- R168: how a transfer is judged by its bytes (tests 1, 2 and 4; a fetch is no request), and FRAME_FAULT: a transfer that
fails one of these tests is answered by its status and changes nothing else.  During a settings load test 3 comes before
test 4, and READ STATUS alone passes it. -/
def Obligations.FaultyTransfersAreAnswered : Prop :=
  (∀ (p : Port) (bytes : List Byte), bytes ≠ [] → bytes.getD 0 0#8 ≠ 0xF0#8 →
    let code := (bytes.getD 0 0#8).toNat
    let len := (bytes.getD 1 0#8).toNat
    let payload := (bytes.drop 2).take len
    let framed := 3 ≤ bytes.length ∧ len ≤ 70 ∧ bytes.length = len + 3
      ∧ bytes.getD (len + 2) 0#8 = (bytes.take (len + 2)).foldl (fun a b => a ^^^ b) 0x3C#8
    (¬framed → judgeTransfer p bytes = .frameFault)
      ∧ (framed → payloadLengths code = none → judgeTransfer p bytes = .unknownRequest)
      ∧ ∀ least most, framed → payloadLengths code = some (least, most) →
          ((least ≤ len ∧ len ≤ most ∧ selectorsNamed code payload → ∃ i, judgeTransfer p bytes = .request i)
            ∧ (¬(least ≤ len ∧ len ≤ most ∧ selectorsNamed code payload) →
                judgeTransfer p bytes = .badShape (decide (code = 0x04)))))
  ∧ ∀ (p : Port) (bytes : List Byte) (s : State),
    (judgeTransfer p bytes = .frameFault →
        ∃ t, exec (.frameFault p bytes) s = .next t ∧ t.answer p = some ⟨.frameFault, []⟩ ∧ sameButAnswer p s t)
      ∧ (judgeTransfer p bytes = .unknownRequest →
        ∃ t, exec (.frameFault p bytes) s = .next t ∧ t.answer p = some ⟨.unknownRequest, []⟩ ∧ sameButAnswer p s t)
      ∧ (∀ b, judgeTransfer p bytes = .badShape b → s.takesRequests →
        ∃ t, exec (.frameFault p bytes) s = .next t ∧ t.answer p = some ⟨.refusedRange, []⟩ ∧ sameButAnswer p s t)
      ∧ (judgeTransfer p bytes = .badShape false → s.tables.link = .loading →
        ∃ t, exec (.frameFault p bytes) s = .next t ∧ t.answer p = some ⟨.refusedBusy, []⟩ ∧ sameButAnswer p s t)
      ∧ (judgeTransfer p bytes = .badShape true → s.tables.link = .loading →
        ∃ t, exec (.frameFault p bytes) s = .next t ∧ t.answer p = some ⟨.refusedRange, []⟩ ∧ sameButAnswer p s t)

/-- R161, R168 (test 3): during a settings load every request but READ STATUS is answered REFUSED_BUSY and changes nothing
else. -/
def Obligations.LoadingRefusesEveryRequest : Prop :=
  ∀ (i : Instr) (p : Port) (code : Byte) (payload : List Byte) (s : State), requestParts i = some (p, code, payload) →
    i ≠ .readStatus p → i.wf = true → s.tables.link = .loading →
      ∃ t, exec i s = .next t ∧ t.answer p = some ⟨.refusedBusy, []⟩ ∧ sameButAnswer p s t

/-! ### Windows on record memory -/

/-- READ and READ ON (R171). -/
def Obligations.ReadsAnswerTheBytesFromTheAddress : Prop :=
  ∀ (p : Port) (addr : BitVec 16) (count : Byte) (s : State), s.takesRequests →
    readsFrom p (.read p addr count) addr.toNat count.toNat s
      ∧ readsFrom p (.readOn p count) (s.ports.get p).window count.toNat s

/-- WRITE (R172): a WRITE that passes its three tests stores every byte, and nothing else of the memory changes.  The owned
count and the backed-up flag stay where no slot's OWN flag changes (R26), and move by one and by the hysteresis of R22
where one slot's does; where several do, the order of the changes is the model's choice (log 28). -/
def Obligations.WriteStoresTheBytes : Prop :=
  (∀ (n : Nat) (s : State), (setOwned n s).intake.owned = n
      ∧ (s.intake.q - 2 ≤ n → (setOwned n s).clock.backedUp = true)
      ∧ (n < s.intake.q - 2 → n ≤ s.intake.q / 2 → (setOwned n s).clock.backedUp = false)
      ∧ (n < s.intake.q - 2 → s.intake.q / 2 < n → (setOwned n s).clock.backedUp = s.clock.backedUp))
  ∧ ∀ (p : Port) (addr : BitVec 16) (data : List Byte) (s : State), s.takesRequests → 1 ≤ data.length → data.length ≤ 64 →
    addr.toNat + data.length ≤ 0x2000 → inOwnRegion p addr.toNat data.length →
    (p = .c → s.tables.link ≠ .storing ∧ s.tables.link ≠ .verifying ∨ 0x1580 ≤ addr.toNat) →
      ∃ t, exec (.write p addr data) s = .next t ∧ t.answer p = some ⟨.done, []⟩
        ∧ (∀ i, i < data.length → readByte t (addr.toNat + i) = data.getD i 0#8)
        ∧ memoryKept (outsideBlock addr.toNat data.length) s t
        ∧ sameButSettledAnswer p
            { s with
              mem := t.mem
              intake := { s.intake with owned := t.intake.owned }
              clock := { s.clock with backedUp := t.clock.backedUp } } t
        ∧ (p = .c → t.intake.owned = s.intake.owned ∧ t.clock.backedUp = s.clock.backedUp)
        ∧ (s.intake.attached = false → t.intake.owned = s.intake.owned ∧ t.clock.backedUp = s.clock.backedUp)
        ∧ ((∀ i, i < s.intake.q → slotOwn (slotControl t i) = slotOwn (slotControl s i)) →
            t.intake.owned = s.intake.owned ∧ t.clock.backedUp = s.clock.backedUp)
        ∧ (∀ j, p = .s → s.intake.attached = true → j < s.intake.q →
            (∀ i, i < s.intake.q → i ≠ j → slotOwn (slotControl t i) = slotOwn (slotControl s i)) →
            slotOwn (slotControl t j) ≠ slotOwn (slotControl s j) →
            let n := if slotOwn (slotControl t j) then s.intake.owned + 1 else s.intake.owned - 1
            t.intake.owned = n
              ∧ t.clock.backedUp
                = if s.intake.q ≤ n + 2 then true else if n ≤ s.intake.q / 2 then false else s.clock.backedUp)

/-- The refusals of a WRITE, in the order of its tests (R172, R173, R165), each leaving all but the answer as it was; and no
WRITE whatever changes a byte of the other port's region. -/
def Obligations.RefusedWritesChangeNothing : Prop :=
  (∀ (p : Port) (addr : BitVec 16) (data : List Byte) (s : State), s.takesRequests → 1 ≤ data.length → data.length ≤ 64 →
    (0x2000 < addr.toNat + data.length → refusedWith p (.write p addr data) .refusedRange s)
      ∧ (addr.toNat + data.length ≤ 0x2000 → ¬inOwnRegion p addr.toNat data.length →
        refusedWith p (.write p addr data) .refusedFence s)
      ∧ (addr.toNat + data.length ≤ 0x2000 → inOwnRegion p addr.toNat data.length → p = .c →
        s.tables.link = .storing ∨ s.tables.link = .verifying → addr.toNat < 0x1580 →
        refusedWith p (.write p addr data) .refusedBusy s))
    ∧ (∀ (addr : BitVec 16) (data : List Byte) (s t : State), exec (.write .s addr data) s = .next t →
        memoryKept (fun a => 0x0C00 ≤ a) s t)
    ∧ ∀ (addr : BitVec 16) (data : List Byte) (s t : State), exec (.write .c addr data) s = .next t →
        memoryKept (fun a => a < 0x0C00) s t

/-! ### Status, attention and capture -/

/-- READ STATUS (R174, R187), throughout a settings load too. -/
def Obligations.ReadStatusAnswersTheTwelveBytes : Prop :=
  ∀ (p : Port) (s : State), ∃ t, exec (.readStatus p) s = .next t ∧ sameButAnswer p s t
    ∧ t.answer p = some ⟨.done,
        natBytes 1 s.clock.state.code ++ natBytes 1 s.clock.directive.kind.code ++ natBytes 2 s.clock.directive.rate
          ++ natBytes 4 s.clock.directive.seekStart ++ [s.clock.directive.seq]
          ++ natBytes 2 (s.ports.get p).pending.toNat
          ++ natBytes 1
            ((if s.intake.state = .halted then 1 else 0)
              + (if s.tables.link = .storing ∨ s.tables.link = .verifying then 2 else 0)
              + 4 * s.tables.lastStore.code + if s.tables.link = .loading then 16 else 0)⟩

/-- R175: a raised source stands in both pending sets; CLEAR ATTENTION removes the named ones from the port's own set and
leaves the other port's. -/
def Obligations.ClearAttentionRemovesTheSources : Prop :=
  (∀ (a : Attention) (s : State) (q : Port),
    ((raise a s).ports.get q).pending = (s.ports.get q).pending ||| 1#16 <<< a.bit)
  ∧ ∀ (p : Port) (sources : BitVec 16) (s : State), s.takesRequests →
    ∃ t, exec (.clearAttention p sources) s = .next t
      ∧ (t.ports.get p).pending = (s.ports.get p).pending &&& ~~~sources
      ∧ t.answer p = some ⟨.done, natBytes 2 ((s.ports.get p).pending &&& ~~~sources).toNat⟩
      ∧ sameButAnswer p
          { s with ports := s.ports.modify p fun r => { r with pending := r.pending &&& ~~~sources } } t

/-- SET ATTENTION MASK (R176), and what the ATTN pin shows. -/
def Obligations.AttentionMaskDrivesTheLine : Prop :=
  (∀ (p : Port) (sources : BitVec 16) (drive : Byte) (s : State), s.takesRequests →
    (drive.toNat ≤ 1 →
        ∃ t, exec (.setAttentionMask p sources drive) s = .next t
          ∧ t.answer p = some ⟨.done, natBytes 2 (sources &&& 0x07FF#16).toNat⟩
          ∧ sameButAnswer p
              { s with
                ports := s.ports.modify p fun r =>
                  { r with mask := sources &&& 0x07FF#16
                           drive := if drive.toNat = 0 then .openDrain else .pushPull } } t)
      ∧ (1 < drive.toNat →
        ∃ t, exec (.setAttentionMask p sources drive) s = .next t ∧ t.answer p = some ⟨.refusedRange, []⟩
          ∧ sameButAnswer p s t))
    ∧ ∀ r : PortRec,
        (r.pending &&& r.mask ≠ 0#16 → r.attnPin = .low)
          ∧ (r.pending &&& r.mask = 0#16 → r.drive = .openDrain → r.attnPin = .undriven)
          ∧ (r.pending &&& r.mask = 0#16 → r.drive = .pushPull → r.attnPin = .high)

/-- CAPTURE (R177, R190): the port's record is written whole, with the worst-lateness figure as it stood, which bit 0 of the
flag then zeroes. -/
def Obligations.CaptureWritesTheRecord : Prop :=
  ∀ (p : Port) (flag : Byte) (s : State), s.takesRequests →
    ∃ t, exec (.capture p flag) s = .next t ∧ t.answer p = some ⟨.done, []⟩
      ∧ readBytes t (captureBase p) 64 = captureRecord p s
      ∧ memoryKept (outsideBlock (captureBase p) 64) s t
      ∧ sameButAnswer p
          { s with
            mem := t.mem
            ports := s.ports.modify p fun r => { r with worst := if flag.getLsbD 0 then 0 else r.worst } } t

/-- The capture record's layout (R190), figure by figure.  Of the pedals' bits each holds channel state, roll state and
override. -/
def Obligations.CaptureRecordIsLaidOutAsStated : Prop :=
  ∀ (p : Port) (s : State),
    let r := captureRecord p s
    let pedal := fun pd => (s.pedals.get pd).state.code + 8 * (s.pedals.get pd).roll.code
      + 16 * (s.pedals.get pd).override.code
    let half := fun h => s.expr.level.get h + 1024 * s.expr.b.get h + 8192 * s.expr.w256.get h
    let chain := fun c => (chainRec s c).state.code
    r.length = 64
      ∧ field r 0x00 1 = (s.clock.state.code + 16 * s.tables.appliedProfile + if s.check.done then 128 else 0) % 256
      ∧ field r 0x01 1 = s.clock.p % 256
      ∧ field r 0x02 4 = s.clock.p / 256 % 4294967296
      ∧ field r 0x06 4 = s.clock.nIn % 4294967296
      ∧ (field r 0x0A 2 : Int) = s.clock.c % 65536
      ∧ field r 0x0C 2 = s.clock.vCmd16 % 65536
      ∧ field r 0x0E 3
        = ((s.clock.nIn - s.clock.p / 256) % 4096 + 4096 * pedal .damper + 262144 * pedal .shift) % 16777216
      ∧ field r 0x11 4 = half .bass % 4294967296
      ∧ field r 0x15 4 = half .treble % 4294967296
      ∧ field r 0x19 1 = ((List.range 88).countP fun n => (track s n).sounds) % 256
      ∧ field r 0x1A 2 = (s.sched.timeline.length + 512 * s.drive.busy.length) % 65536
      ∧ field r 0x1C 1 = (chain 0 + 4 * chain 1 + 16 * chain 2 + 64 * chain 3) % 256
      ∧ field r 0x1D 3 = ((s.ports.get p).worst + 131072 * s.cues.last.getD 63) % 16777216
      ∧ field r 0x20 2 = s.tables.generation % 65536
      ∧ field r 0x22 2 = s.check.result.toNat
      ∧ field r 0x24 4 = s.intake.linesConsumed % 4294967296
      ∧ field r 0x28 2 = s.intake.gapsFilled % 65536
      ∧ field r 0x2A 2 = s.intake.damaged % 65536
      ∧ field r 0x2C 2 = s.intake.duplicates % 65536
      ∧ field r 0x2E 2 = s.clock.starvations % 65536
      ∧ field r 0x30 2 = s.clock.discontinuities % 65536
      ∧ field r 0x32 2 = s.reading.specks % 65536
      ∧ field r 0x34 2 = s.sched.lateStrikes % 65536
      ∧ field r 0x36 2 = s.sched.staleDrops % 65536
      ∧ field r 0x38 2 = s.sched.restrikes % 65536
      ∧ field r 0x3A 2 = s.drive.thermalCaps % 65536
      ∧ field r 0x3C 2 = s.drive.suppressed % 65536
      ∧ field r 0x3E 2 = s.seek.shorts % 65536

/-! ### The intake -/

/-- ATTACH RING (R25): its tests in their order, and what an attached ring starts with. -/
def Obligations.AttachRingTakesTheRing : Prop :=
  ∀ (p : Port) (base : BitVec 16) (q policy : Byte) (s : State), s.takesRequests →
    let c := Instr.attachRing p base q policy
    let fits := (16 ≤ q.toNat ∧ q.toNat ≤ 128) ∧ base.toNat % 4 = 0 ∧ base.toNat + 20 * q.toNat ≤ 0x0BC0 ∧ policy.toNat ≤ 1
    (s.clock.state ≠ .empty → refusedWith p c .refusedState s)
      ∧ (s.clock.state = .empty → ¬fits → refusedWith p c .refusedRange s)
      ∧ (s.clock.state = .empty → fits →
        ∃ t, exec c s = .next t ∧ t.answer p = some ⟨.done, []⟩
          ∧ t.intake.owned = countOwned s.mem t.intake
          ∧ sameButSettledAnswer p
              { s with
                intake :=
                  { s.intake with
                    attached := true
                    base := base.toNat
                    q := q.toNat
                    policy := if policy.toNat = 0 then .hold else .halt
                    index := 0
                    state := .running
                    owned := t.intake.owned }
                clock := { s.clock with backedUp := false } } t)

/-- INTAKE RESUME (R33): taken in every roll state, with or without a ring; from RUNNING it changes nothing. -/
def Obligations.IntakeResumeRunsTheIntake : Prop :=
  ∀ (p : Port) (s : State), s.takesRequests →
    ∃ t, exec (.intakeResume p) s = .next t ∧ t.answer p = some ⟨.done, []⟩
      ∧ sameButAnswer p { s with intake := { s.intake with state := .running } } t

/-- The check byte of a slot (R30). -/
def Obligations.SlotCheckIsTheExclusiveOr : Prop :=
  ∀ slot : List Byte, slot.length = 20 →
    (slotCheckOk slot = true ↔ ((slot.drop 1).take 17).foldl (fun a b => a ^^^ b) 0x3C#8 = slot.getD 18 0#8)

/-- CONSUMPTION_EVENT (R24, R29): where the conditions of R28 hold, the slot at the consume index is returned, control byte
with OWN cleared and the other bits kept, the owned count falls by one with its hysteresis (R22) and the index moves on; no
other byte changes.  In SEEKING the slot is sorted by its check, its END flag and the seek start (R38, R146): skipped, the
end of the roll (R17), the start of a preroll (R147), or an empty preroll that completes at once (R151).  That the end of
the roll by an END line in SEEKING also empties the Timeline, clears the owner counts and rests the pedals is the model's
reading of R104, R129 and R135 (log 15). -/
def Obligations.ConsumptionReturnsTheSlot : Prop :=
  (∀ s : State,
    let slot := slotBytes s s.intake.index
    let x := if s.clock.lineHeld then s.clock.nIn + 1 else 0
    consumable s = true ↔
      s.intake.attached = true ∧ slotOwn (slotControl s s.intake.index) = true
        ∧ s.clock.state ∉ [.empty, .paused, .ended]
        ∧ (s.clock.state ∈ [.ready, .playing, .starved] → s.clock.nIn - s.clock.p / 256 ≤ s.clock.readAhead + 63)
        ∧ (s.clock.state = .stepping → s.clock.nIn - s.clock.p / 256 < 64)
        ∧ s.sched.timeline.length + 90 ≤ 256
        ∧ (slotCheckOk slot = true → x + 1 ≤ slotNumber slot → slotNumber slot ≤ x + 4 →
            s.sched.timeline.length + 180 ≤ 256)
        ∧ s.intake.state = .running ∧ s.intake.endStop = false)
    ∧ (∀ s : State, consumable s = true →
    ∃ t, exec .consumptionEvent s = .next t
      ∧ readByte t (slotAddr s.intake s.intake.index) = slotControl s s.intake.index &&& 0xFE#8
      ∧ (∃ st : SlotStatus,
          readByte t (slotAddr s.intake s.intake.index + 19)
            = statusByte st (slotWrap (slotControl s s.intake.index) != decide (s.intake.index + 1 = s.intake.q)))
      ∧ memoryKept
          (fun a => a ≠ slotAddr s.intake s.intake.index ∧ a ≠ slotAddr s.intake s.intake.index + 19) s t
      ∧ t.intake.owned = s.intake.owned - 1
      ∧ t.clock.backedUp = hysteresis s.intake.q (s.intake.owned - 1) s.clock.backedUp
      ∧ t.intake.index = (if s.intake.index + 1 < s.intake.q then s.intake.index + 1 else 0)
      ∧ t.drive = s.drive ∧ t.cues = s.cues ∧ t.check = s.check ∧ t.settings = s.settings
      ∧ t.tables.live = s.tables.live)
    ∧ (∀ s : State, consumable s = false → exec .consumptionEvent s = .next s)
    ∧ ∀ s : State, consumable s = true → s.clock.state = .seeking → s.clock.endLine = none →
      let slot := slotBytes s s.intake.index
      let control := slotControl s s.intake.index
      let n := slotNumber slot
      let status := fun st => statusByte st (slotWrap control != decide (s.intake.index + 1 = s.intake.q))
      let at19 := slotAddr s.intake s.intake.index + 19
      ∃ t, exec .consumptionEvent s = .next t
        ∧ (slotCheckOk slot = false ∨ slotEnd control = false ∧ n < s.seek.start →
            readByte t at19 = status .skipped
              ∧ t.intake.damaged
                = (if slotCheckOk slot then s.intake.damaged else min (s.intake.damaged + 1) 65535)
              ∧ sameButSettled
                  { s with
                    mem := t.mem
                    intake :=
                      { s.intake with damaged := t.intake.damaged, owned := t.intake.owned, index := t.intake.index }
                    clock := { s.clock with backedUp := t.clock.backedUp } } t)
        ∧ (slotCheckOk slot = true → slotEnd control = true →
            readByte t at19 = status .consumed ∧ t.clock.state = .ended ∧ t.clock.p = n * 256 ∧ t.clock.nIn = n
              ∧ t.clock.endLine = some n ∧ t.clock.autoPlay = false ∧ t.intake.endStop = true ∧ attended .ended t
              ∧ t.intake.lastImage = slotImage slot ∧ scheduleClear t ∧ ownersClear t ∧ pedalsRest t
              ∧ t.clock.directive.kind = .stop)
        ∧ (slotCheckOk slot = true → slotEnd control = false → s.seek.start ≤ n → n < s.seek.target →
            readByte t at19 = status .consumed ∧ t.clock.state = .preroll ∧ t.clock.p = n * 256 ∧ t.clock.nIn = n
              ∧ t.clock.lineHeld = true ∧ t.clock.autoPlay = s.clock.autoPlay ∧ t.seek = s.seek
              ∧ t.intake.lastImage = slotImage slot ∧ t.clock.directive.kind = .run
              ∧ t.reading = (shadeLine n (takeSamples (lineRead s) (clearExpression (clearReading s)))).reading
              ∧ t.expr = (shadeLine n (takeSamples (lineRead s) (clearExpression (clearReading s)))).expr)
        ∧ (slotCheckOk slot = true → slotEnd control = false → s.seek.start ≤ n → s.seek.target ≤ n →
            readByte t at19 = status .consumed ∧ t.clock.state = (if s.clock.autoPlay then .starved else .ready)
              ∧ t.clock.p = n * 256 ∧ t.clock.nIn = n ∧ t.clock.c = 0 ∧ t.clock.autoPlay = false
              ∧ t.seek.target = n ∧ attended .seek t
              ∧ t.seek.shorts
                = (if s.seek.target < n then min (s.seek.shorts + 1) 65535 else s.seek.shorts)
              ∧ (s.clock.autoPlay = true → attended .starved t
                  ∧ t.clock.starvations = min (s.clock.starvations + 1) 65535))

/-- A duplicate (R35): a slot in order whose number is below the expected line is returned DUPLICATE with nothing read. -/
def Obligations.DuplicatesAreDropped : Prop :=
  ∀ s : State, consumable s = true → s.clock.state ≠ .seeking → slotCheckOk (slotBytes s s.intake.index) = true →
    slotNumber (slotBytes s s.intake.index) < expectedLine s →
      ∃ t, exec .consumptionEvent s = .next t
        ∧ readByte t (slotAddr s.intake s.intake.index + 19)
          = statusByte .duplicate (slotWrap (slotControl s s.intake.index) != decide (s.intake.index + 1 = s.intake.q))
        ∧ t.intake.duplicates = min (s.intake.duplicates + 1) 65535
        ∧ sameButSettled
            { s with
              mem := t.mem
              intake :=
                { s.intake with
                  duplicates := t.intake.duplicates
                  owned := s.intake.owned - 1
                  index := t.intake.index }
              clock := { s.clock with backedUp := t.clock.backedUp } } t

/-- The HALT policy (R32): a slot that fails its check is returned DAMAGED_HALTED, nothing is read, and the intake halts
with DAMAGE attention. -/
def Obligations.HaltPolicyHaltsTheIntake : Prop :=
  ∀ s : State, consumable s = true → s.clock.state ≠ .seeking → slotCheckOk (slotBytes s s.intake.index) = false →
    s.intake.policy = .halt →
      ∃ t, exec .consumptionEvent s = .next t
        ∧ readByte t (slotAddr s.intake s.intake.index + 19)
          = statusByte .damagedHalted (slotWrap (slotControl s s.intake.index) != decide (s.intake.index + 1 = s.intake.q))
        ∧ t.intake.state = .halted ∧ t.intake.damaged = min (s.intake.damaged + 1) 65535 ∧ attended .damage t
        ∧ t.clock.nIn = s.clock.nIn ∧ t.clock.p = s.clock.p ∧ t.clock.state = s.clock.state
        ∧ t.intake.lastImage = s.intake.lastImage ∧ t.reading = s.reading ∧ t.expr = s.expr

/-- Lines read (R29, R6).  In PLAYING, STARVED, READY and STEPPING a line in sequence, a gap filled or a line held becomes
N_in and the last image and is counted; P stays; in PLAYING c is the servo correction of the new margin (R12), STARVED ends
at half the read-ahead or with the end line (R14, R17).  In LEADER the lines up to 63 feed the signature (R58, R59), line 63
makes the lookup (R60), an end line ends the roll (R17), and the event after the lookup hands over to READY at its first
line (R5); lines past 63 in the lookup's own event are read from CLOSED filters, shaded and handed to the Scheduler (R60),
while the state stays LEADER (the model's reading of R5 beside R60, log 13); an END flag on the slot that hands over is
recorded in READY (the model's choice, log 14).  In READY, PLAYING, STARVED and STEPPING the onsets and closes of a line in
sequence reach the Scheduler in track order (R47, R54), and what they make eligible is handed on in the same event (R96). -/
def Obligations.LinesInSequenceRaiseTheMargin : Prop :=
  (∀ m l : Nat,
    ((m : Int) - l ≤ 64 → -64 ≤ (m : Int) - l → servo m l = 0)
      ∧ (64 < (m : Int) - l → servo m l = min 30000 (60 * ((m : Int) - l - 64)))
      ∧ ((m : Int) - l < -64 → servo m l = max (-30000) (60 * ((m : Int) - l + 64))))
  ∧ (∀ s : State, consumable s = true → s.clock.state = .playing → s.clock.lineHeld = true →
    slotCheckOk (slotBytes s s.intake.index) = true → slotNumber (slotBytes s s.intake.index) = s.clock.nIn + 1 →
    slotEnd (slotControl s s.intake.index) = false → s.clock.p ≤ s.clock.nIn * 256 → s.clock.endLine = none →
      ∃ t, exec .consumptionEvent s = .next t
        ∧ t.clock.state = .playing ∧ t.clock.nIn = s.clock.nIn + 1 ∧ t.clock.p = s.clock.p
        ∧ t.clock.c = servo (s.clock.nIn + 1 - s.clock.p / 256) s.clock.readAhead
        ∧ t.intake.lastImage = slotImage (slotBytes s s.intake.index)
        ∧ t.intake.linesConsumed = min (s.intake.linesConsumed + 1) 4294967295
        ∧ readByte t (slotAddr s.intake s.intake.index + 19)
          = statusByte .consumed (slotWrap (slotControl s s.intake.index) != decide (s.intake.index + 1 = s.intake.q)))
  ∧ (∀ (s : State) (last : Nat), consumable s = true → s.clock.state ∈ [.ready, .playing, .starved, .stepping] →
    s.clock.lineHeld = true → s.clock.p ≤ s.clock.nIn * 256 → s.clock.endLine = none → readsUpTo s last →
      let ends := slotEnd (slotControl s s.intake.index)
      let m := last - s.clock.p / 256
      ∃ t, exec .consumptionEvent s = .next t ∧ tookLines last s t
        ∧ t.clock.p = s.clock.p ∧ t.clock.endLine = (if ends then some last else none) ∧ t.intake.endStop = ends
        ∧ t.clock.starvations = s.clock.starvations
        ∧ (s.clock.state = .playing → t.clock.state = .playing ∧ t.clock.c = servo m s.clock.readAhead)
        ∧ (s.clock.state = .starved → s.clock.readAhead / 2 ≤ m ∨ ends = true →
            t.clock.state = .playing ∧ t.clock.c = servo m s.clock.readAhead)
        ∧ (s.clock.state = .starved → m < s.clock.readAhead / 2 → ends = false →
            t.clock.state = .starved ∧ t.clock.c = s.clock.c)
        ∧ (s.clock.state ∈ [.ready, .stepping] → t.clock.state = s.clock.state ∧ t.clock.c = s.clock.c)
        ∧ (last = expectedLine s →
            let shaded := shadeLine last (takeSamples (lineRead s) s)
            let passed := eventsPassed s (lineRead s) shaded
            let settled := handOnAll { passed with clock := t.clock }
            t.reading = shaded.reading ∧ t.expr = shaded.expr ∧ t.sched = settled.sched ∧ t.pedals = settled.pedals
              ∧ (s.clock.state = .ready →
                  t.sched.tracks = passed.sched.tracks ∧ t.sched.nextSeq = passed.sched.nextSeq ∧ t.pedals = s.pedals
                    ∧ t.sched.timeline.map Entry.made = passed.sched.timeline.map Entry.made)))
  ∧ (∀ (s : State) (last : Nat), consumable s = true → s.clock.state = .leader → s.clock.signatureTaken = false →
    readsUpTo s last →
      let x := expectedLine s
      let ok := slotCheckOk (slotBytes s s.intake.index)
      let signature := crcBytes s.reading.signature (imageBytes ((lineRead s).image &&& s.reading.leaderMask))
      let valid := s.reading.signatureValid && ok
      ∃ t, exec .consumptionEvent s = .next t ∧ tookLines last s t
        ∧ (slotEnd (slotControl s s.intake.index) = true →
            t.clock.state = .ended ∧ t.clock.p = last * 256 ∧ t.clock.endLine = some last ∧ attended .ended t
              ∧ t.clock.directive.kind = .stop)
        ∧ (slotEnd (slotControl s s.intake.index) = false →
            t.clock.state = .leader ∧ t.clock.p = s.clock.p ∧ t.clock.endLine = s.clock.endLine)
        ∧ t.clock.signatureTaken = decide (x ≤ 63 ∧ 63 ≤ last)
        ∧ (last < 63 → t.tables = s.tables ∧ t.expr = s.expr ∧ t.reading.history = s.reading.history)
        ∧ (last = x → x ≤ 63 → t.reading.signature = signature ∧ t.reading.signatureValid = valid)
        ∧ (x < last → x ≤ 63 → t.reading.signatureValid = false)
        ∧ (x ≤ 63 → 63 ≤ last → ∃ i, i < 8 ∧ t.tables.appliedProfile = i ∧ (x < last → i = 0)
            ∧ (last = x → valid = false → i = 0)
            ∧ (i ≠ 0 → (liveProfile s i).valid ≠ 0 ∧ (liveProfile s i).signature = signature)
            ∧ (∀ j, last = x → valid = true → 1 ≤ j → j < 8 → (liveProfile s j).valid ≠ 0 →
                (liveProfile s j).signature = signature → 1 ≤ i ∧ i ≤ j)
            ∧ t.clock.vNom16 = (liveProfile s i).vNom16 ∧ t.clock.readAhead = (liveProfile s i).readAhead
            ∧ t.clock.vCmd16 = commandedRate (liveProfile s i).vNom16 s.clock.tau
            ∧ t.seek.prime = (liveProfile s i).prime ∧ t.reading.onRun = (liveProfile s i).onRun
            ∧ t.reading.offRun = (liveProfile s i).offRun ∧ t.reading.stepStable = (liveProfile s i).stepStable
            ∧ t.expr.splitKey = (liveProfile s i).splitKey ∧ t.expr.steps = (liveProfile s i).steps
            ∧ t.expr.wMax = (liveProfile s i).wMax
            ∧ (last = 63 → t.reading.debouncers = ⟨⟨none, 0⟩, ⟨none, 0⟩⟩ ∧ t.reading.history = []
                ∧ ∀ f ∈ t.reading.filters.toList, f = .closed)
            ∧ (63 < last →
                let u := (filledLines x 64 s.intake.lastImage).foldl (fun v ln => readLeader ln v) s
                let w := (filledLines 64 last s.intake.lastImage ++ [lineRead s]).foldl (fun v ln => readPlayed ln v) u
                u.reading.debouncers = ⟨⟨none, 0⟩, ⟨none, 0⟩⟩ ∧ u.reading.history = []
                  ∧ (∀ f ∈ u.reading.filters.toList, f = .closed)
                  ∧ t.reading = w.reading ∧ t.expr = w.expr
                  ∧ t.reading.history.map (·.line) = List.range' 64 (last - 63)
                  ∧ (slotEnd (slotControl s s.intake.index) = false →
                      t.sched.tracks = w.sched.tracks
                        ∧ t.sched.timeline.map (fun e => (e.body, e.due, e.seq))
                          = w.sched.timeline.map (fun e => (e.body, e.due, e.seq))))))
  ∧ ∀ (s : State) (last : Nat), consumable s = true → s.clock.state = .leader → s.clock.signatureTaken = true →
    readsUpTo s last →
      let ends := slotEnd (slotControl s s.intake.index)
      ∃ t, exec .consumptionEvent s = .next t ∧ tookLines last s t
        ∧ t.clock.state = .ready ∧ t.clock.p = expectedLine s * 256 ∧ t.clock.c = s.clock.c
        ∧ t.clock.endLine = (if ends then some last else s.clock.endLine) ∧ t.intake.endStop = ends
        ∧ t.reading.signature = s.reading.signature ∧ t.tables = s.tables
        ∧ (last = expectedLine s → t.expr = (shadeLine last (takeSamples (lineRead s) s)).expr)

/-- A gap in PLAYING (R36): a slot one to four lines past the expected one is read after the lines filled in, which are
counted; it is returned GAP_FILLED, N_in is its number and P stays.  In PREROLL (R148, R149) lines below the target,
filled ones too, are read silently with P following N_in, and the seek completes at the turn of line T: READY, or with
auto-play STARVED at T·256 until half the read-ahead stands; an end line short of the target ends the roll with no SEEK
attention. An END flag on the slot that brings line T acts in the state its lines leave (the model's choice, log 14), and
a pedal that the completion does not ask for keeps its channel state, also one lifted whose roll state becomes UP there
(log 20).  At the turn of line T the target's events are created in track order: DAMPER's lift, a caught strike for each
note track settled open, SHIFT's lift, all due at T·256, and a pedal under ON whose roll state is UP gets its own request
(R149 step 3, R150, R136); the events of line T follow them. -/
def Obligations.GapsAreFilled : Prop :=
  (∀ s : State, consumable s = true → s.clock.state = .playing → s.clock.lineHeld = true →
    slotCheckOk (slotBytes s s.intake.index) = true →
    let n := slotNumber (slotBytes s s.intake.index)
    s.clock.nIn + 1 < n → n ≤ s.clock.nIn + 5 → slotEnd (slotControl s s.intake.index) = false →
    s.clock.p ≤ s.clock.nIn * 256 → s.clock.endLine = none →
      ∃ t, exec .consumptionEvent s = .next t
        ∧ t.clock.state = .playing ∧ t.clock.nIn = n ∧ t.clock.p = s.clock.p
        ∧ t.clock.c = servo (n - s.clock.p / 256) s.clock.readAhead
        ∧ t.intake.gapsFilled = min (s.intake.gapsFilled + (n - (s.clock.nIn + 1))) 65535
        ∧ t.intake.linesConsumed = min (s.intake.linesConsumed + (n - s.clock.nIn)) 4294967295
        ∧ t.intake.lastImage = slotImage (slotBytes s s.intake.index)
        ∧ readByte t (slotAddr s.intake s.intake.index + 19)
          = statusByte .gapFilled (slotWrap (slotControl s s.intake.index) != decide (s.intake.index + 1 = s.intake.q)))
  ∧ (∀ (s : State) (target : Nat),
    let t := catchTarget target s
    let lift := fun pd => if (s.pedals.get pd).roll = .down then [(EntryBody.lift pd, target * 256)] else []
    let strike := fun n =>
      let v := liveVoicing s (chooseKey s n)
      let l := trimmedLevel s.expr (trackHalf s.expr n) ((newestLevels s).get (trackHalf s.expr n))
      (EntryBody.strike
        { track := n, key := chooseKey s n, pw10 := strikePw10 v l, cap10 := capPw10 v, level := l
          caught := true, restrike := false, offPending := false, held := 0 }, target * 256)
    let caught := (List.range 88).filter fun n => settledTrack s (6 + n) && !(liveVoicing s (chooseKey s n)).mute
    t.sched.timeline.map (fun e => (e.body, e.due))
        = s.sched.timeline.map (fun e => (e.body, e.due)) ++ lift .damper ++ caught.map strike ++ lift .shift
      ∧ (∀ x, s.reading.history.getLast? = some x → newestLevels s = x.levels)
      ∧ ∀ pd,
          let r := s.pedals.get pd
          let asks := r.roll = .up ∧ r.override = .on ∧ r.state = .rest
          (asks → t.pedals.get pd = { r with state := .waitingSlot, ownRequest := true })
            ∧ (¬asks → t.pedals.get pd = r))
  ∧ ∀ (s : State) (last : Nat), consumable s = true → s.clock.state = .preroll → s.clock.endLine = none →
    readsUpTo s last →
      let x := expectedLine s
      let target := s.seek.target
      let ends := slotEnd (slotControl s s.intake.index)
      let roll := fun tr => if settledTrack s tr then PedalRoll.down else PedalRoll.up
      ∃ t, exec .consumptionEvent s = .next t ∧ tookLines last s t
        ∧ (last < target → ends = false →
            t.clock.state = .preroll ∧ t.clock.p = last * 256 ∧ t.clock.c = s.clock.c ∧ t.seek = s.seek
              ∧ t.clock.autoPlay = s.clock.autoPlay ∧ t.sched.tracks = s.sched.tracks
              ∧ t.sched.timeline.map (·.seq) = s.sched.timeline.map (·.seq)
              ∧ (last = x → t.reading = (shadeLine last (takeSamples (lineRead s) s)).reading
                  ∧ t.expr = (shadeLine last (takeSamples (lineRead s) s)).expr))
        ∧ (last < target → ends = true →
            t.clock.state = .ended ∧ t.clock.p = last * 256 ∧ t.clock.endLine = some last
              ∧ t.clock.autoPlay = false ∧ attended .ended t
              ∧ (∀ p, (t.ports.get p).pending &&& Attention.seek.set = (s.ports.get p).pending &&& Attention.seek.set))
        ∧ (x ≤ target → target ≤ last →
            t.clock.p = target * 256 ∧ t.clock.autoPlay = false ∧ attended .seek t ∧ t.seek = s.seek
              ∧ t.clock.endLine = (if ends then some last else none) ∧ t.intake.endStop = ends
              ∧ (s.clock.autoPlay = false → t.clock.state = .ready ∧ t.clock.c = 0
                  ∧ t.clock.starvations = s.clock.starvations
                  ∧ (x = target → t.pedals.damper.roll = roll 5 ∧ t.pedals.shift.roll = roll 94)
                  ∧ (x = target → target = last →
                      let rolled := rollFromTrack .shift 94 (rollFromTrack .damper 5 s)
                      let caught := catchTarget target rolled
                      let passed := eventsPassed s (lineRead s) (shadeLine last (takeSamples (lineRead s) caught))
                      t.sched.tracks = passed.sched.tracks ∧ t.pedals = caught.pedals
                        ∧ t.sched.timeline.map Entry.made = passed.sched.timeline.map Entry.made))
              ∧ (s.clock.autoPlay = true → target < last ∨ ends = false →
                  attended .starved t ∧ t.clock.starvations = min (s.clock.starvations + 1) 65535)
              ∧ (s.clock.autoPlay = true → target = last → ends = false → t.clock.state = .starved ∧ t.clock.c = 0)
              ∧ (s.clock.autoPlay = true → target = last → ends = true → t.clock.state = .ended ∧ attended .ended t)
              ∧ (s.clock.autoPlay = true → target < last →
                  t.clock.state = (if s.clock.readAhead / 2 ≤ last - target ∨ ends then .playing else .starved)))

/-- A discontinuity (R37, R19): a slot five or more lines past the expected one ends what sounds, moves P to its line and
starts the run again there.  In READY, PLAYING and STARVED: READY stays, play starves there at once, and with the END flag
ends there (R14, R18).  In LEADER it ends the leader into READY, with profile 0 applied where the signature was not taken
(R61); STEPPING stays; PREROLL starts again at the line, or completes there (R148, R151).  Before the line is read the
Timeline is empty, every track SILENT, every key without owners and with its OFF to be recorded where it had one, every
filter CLOSED, both pedals' roll states UP and both pedals at REST, but for one that ON asks for at the seek's completion
(R19, R103, R129, R135, R136); the line's own events follow.  That a break with END in play goes to the end of the roll with
no starvation counted is the model's reading (log 14). -/
def Obligations.BreaksRestartTheRun : Prop :=
  (∀ s : State, consumable s = true → s.clock.state ∈ [.ready, .playing, .starved] →
    slotCheckOk (slotBytes s s.intake.index) = true →
    let n := slotNumber (slotBytes s s.intake.index)
    expectedLine s + 5 ≤ n → slotEnd (slotControl s s.intake.index) = false → s.clock.endLine = none →
      ∃ t, exec .consumptionEvent s = .next t
        ∧ t.clock.state = (if s.clock.state = .ready then .ready else .starved)
        ∧ t.clock.p = n * 256 ∧ t.clock.nIn = n
        ∧ t.clock.discontinuities = min (s.clock.discontinuities + 1) 65535 ∧ attended .discontinuity t
        ∧ (s.clock.state ≠ .ready → t.clock.c = 0 ∧ attended .starved t
            ∧ t.clock.starvations = min (s.clock.starvations + 1) 65535)
        ∧ ownersClear t ∧ t.reading.history.length = 1 ∧ (∀ pd, (t.pedals.get pd).duty = 0)
        ∧ t.intake.lastImage = slotImage (slotBytes s s.intake.index)
        ∧ readByte t (slotAddr s.intake s.intake.index + 19)
          = statusByte .discontinuity (slotWrap (slotControl s s.intake.index) != decide (s.intake.index + 1 = s.intake.q)))
  ∧ (∀ (n : Nat) (s : State),
    let t := takeBreak n s
    let asks := fun pd => s.clock.state = .preroll ∧ s.seek.target ≤ n ∧ (s.pedals.get pd).override = .on
    scheduleClear t ∧ ownersClear t ∧ keysCleared s t
      ∧ (∀ f ∈ t.reading.filters.toList, f = .closed) ∧ t.reading.history = []
      ∧ t.reading.debouncers = ⟨⟨none, 0⟩, ⟨none, 0⟩⟩
      ∧ (s.clock.state ∉ [.leader, .preroll] → t.expr = s.expr)
      ∧ ∀ pd, (t.pedals.get pd).roll = .up ∧ (t.pedals.get pd).duty = 0
          ∧ (t.pedals.get pd).override = (s.pedals.get pd).override
          ∧ (¬asks pd → (t.pedals.get pd).state = .rest ∧ (t.pedals.get pd).ownRequest = false)
          ∧ (asks pd → (t.pedals.get pd).state = .waitingSlot ∧ (t.pedals.get pd).ownRequest = true))
  ∧ ∀ s : State, consumable s = true → s.clock.state ∉ [.seeking] →
    slotCheckOk (slotBytes s s.intake.index) = true → s.clock.endLine = none →
    let n := slotNumber (slotBytes s s.intake.index)
    let ends := slotEnd (slotControl s s.intake.index)
    let old := s.clock
    expectedLine s + 5 ≤ n →
      ∃ t, exec .consumptionEvent s = .next t
        ∧ t.clock.p = n * 256 ∧ t.clock.nIn = n ∧ t.clock.lineHeld = true
        ∧ t.clock.discontinuities = min (s.clock.discontinuities + 1) 65535 ∧ attended .discontinuity t
        ∧ ownersClear t ∧ t.reading.history.length = 1 ∧ (∀ pd, (t.pedals.get pd).duty = 0)
        ∧ t.reading.signature = s.reading.signature ∧ t.intake.endStop = ends
        ∧ t.clock.endLine = (if ends then some n else none)
        ∧ t.intake.lastImage = slotImage (slotBytes s s.intake.index)
        ∧ t.intake.linesConsumed = min (s.intake.linesConsumed + 1) 4294967295
        ∧ t.intake.gapsFilled = s.intake.gapsFilled ∧ t.intake.damaged = s.intake.damaged
        ∧ t.intake.duplicates = s.intake.duplicates
        ∧ readByte t (slotAddr s.intake s.intake.index + 19)
          = statusByte .discontinuity (slotWrap (slotControl s s.intake.index) != decide (s.intake.index + 1 = s.intake.q))
        ∧ (old.state ≠ .preroll → ends = false ∨ old.state ∈ [.leader, .ready, .stepping] →
            let broken := takeBreak n s
            let shaded := shadeLine n (takeSamples (lineRead s) broken)
            let passed := eventsPassed broken (lineRead s) shaded
            let settled := handOnAll { passed with clock := t.clock }
            t.reading = shaded.reading ∧ t.expr = shaded.expr ∧ t.sched = settled.sched ∧ t.pedals = settled.pedals)
        ∧ (old.state ∈ [.leader, .ready] → t.clock.state = .ready ∧ t.clock.c = old.c)
        ∧ (old.state = .stepping → t.clock.state = .stepping ∧ t.clock.c = old.c)
        ∧ (old.state ∈ [.playing, .starved] → ends = true →
            t.clock.state = .ended ∧ attended .ended t ∧ t.clock.starvations = old.starvations)
        ∧ (old.state = .leader → old.signatureTaken = false →
            t.tables.appliedProfile = 0 ∧ t.clock.vNom16 = (liveProfile s 0).vNom16
              ∧ t.clock.readAhead = (liveProfile s 0).readAhead ∧ t.seek.prime = (liveProfile s 0).prime
              ∧ t.reading.onRun = (liveProfile s 0).onRun ∧ t.reading.offRun = (liveProfile s 0).offRun
              ∧ t.reading.stepStable = (liveProfile s 0).stepStable ∧ t.expr.splitKey = (liveProfile s 0).splitKey
              ∧ t.expr.steps = (liveProfile s 0).steps)
        ∧ (old.state ≠ .leader ∨ old.signatureTaken = true →
            t.tables = s.tables ∧ t.clock.vNom16 = old.vNom16 ∧ t.clock.readAhead = old.readAhead)
        ∧ (old.state = .preroll → n < s.seek.target → ends = false →
            t.clock.state = .preroll ∧ t.clock.c = old.c ∧ t.clock.autoPlay = old.autoPlay ∧ t.seek = s.seek
              ∧ t.expr = (shadeLine n (takeSamples (lineRead s) (clearExpression (clearReading s)))).expr)
        ∧ (old.state = .preroll → n < s.seek.target → ends = true → t.clock.state = .ended ∧ attended .ended t)
        ∧ (old.state = .preroll → s.seek.target ≤ n → ends = false →
            t.clock.state = (if old.autoPlay then .starved else .ready) ∧ t.clock.autoPlay = false ∧ t.clock.c = 0
              ∧ attended .seek t ∧ t.seek.target = n
              ∧ t.seek.shorts = (if s.seek.target < n then min (s.seek.shorts + 1) 65535 else s.seek.shorts))

/-! ### Reading and expression -/

/-- The filter's moves (R48), line by line of its table, and the debouncer's (R53). -/
def Obligations.FiltersAndDebouncersMoveByTheTables : Prop :=
  (∀ (onRun offRun line j cand : Nat),
    Filter.sample onRun offRun line false .closed = (.closed, .none)
      ∧ (onRun = 1 → Filter.sample onRun offRun line true .closed = (.opened, .onset line))
      ∧ (1 < onRun → Filter.sample onRun offRun line true .closed = (.opening 1 line, .none))
      ∧ (j + 1 < onRun → Filter.sample onRun offRun line true (.opening j cand) = (.opening (j + 1) cand, .none))
      ∧ (j + 1 = onRun → Filter.sample onRun offRun line true (.opening j cand) = (.opened, .onset cand))
      ∧ Filter.sample onRun offRun line false (.opening j cand) = (.closed, .speck)
      ∧ Filter.sample onRun offRun line true .opened = (.opened, .none)
      ∧ (offRun = 1 → Filter.sample onRun offRun line false .opened = (.closed, .close line))
      ∧ (1 < offRun → Filter.sample onRun offRun line false .opened = (.closing 1 line, .none))
      ∧ (j + 1 < offRun → Filter.sample onRun offRun line false (.closing j cand) = (.closing (j + 1) cand, .none))
      ∧ (j + 1 = offRun → Filter.sample onRun offRun line false (.closing j cand) = (.closed, .close cand))
      ∧ Filter.sample onRun offRun line true (.closing j cand) = (.opened, .bridged))
    ∧ ∀ (stable r b : Nat) (d : Debouncer), 1 ≤ stable →
      (r = b → d.take stable r b = (⟨none, 0⟩, b))
        ∧ (r ≠ b → d.candidate = some r → d.count + 1 < stable → d.take stable r b = (⟨some r, d.count + 1⟩, b))
        ∧ (r ≠ b → d.candidate = some r → stable ≤ d.count + 1 → d.take stable r b = (⟨none, 0⟩, r))
        ∧ (r ≠ b → d.candidate ≠ some r → 1 < stable → d.take stable r b = (⟨some r, 1⟩, b))
        ∧ (r ≠ b → d.candidate ≠ some r → stable = 1 → d.take stable r b = (⟨none, 0⟩, r))

/-- The level history (R55): a line read in play adds its entry at the newest end, the oldest leaving where eight were
held. -/
def Obligations.HistoryKeepsTheLastEightLines : Prop :=
  ∀ (n : Nat) (s : State), s.reading.history.length ≤ 8 →
    (shadeLine n s).reading.history
        = (if s.reading.history.length = 8 then s.reading.history.drop 1 else s.reading.history)
          ++ [⟨n, (shadeLine n s).expr.level⟩]
      ∧ (shadeLine n s).reading.history.length ≤ 8

/-- Stage 1 (R68, R69, R70): the rate is chosen by the settled SWELL and QUICK tracks of the half; the swell offset moves by
q toward its bound and stays in range, and the level stays in 0..1023.  A line read (R47): every filter takes its sample and
the specks are counted (R48, R51); then, for each half, the debouncer takes the raw code of the settled step tracks (R52,
R53), and W256 and L are those of Stage 1 under the code then in force (R70). -/
def Obligations.StageOneRampsTheLevel : Prop :=
  (∀ e : Expression, rampRate e true true = e.upFast ∧ rampRate e true false = e.upSlow
      ∧ rampRate e false true = e.downFast ∧ rampRate e false false = e.downSlow)
  ∧ (swellTrack .bass = 3 ∧ quickTrack .bass = 4 ∧ swellTrack .treble = 96 ∧ quickTrack .treble = 95)
  ∧ (∀ (s : State) (h : Half) (b : Nat),
    let r := rampRate s.expr (settledTrack s (swellTrack h)) (settledTrack s (quickTrack h))
    let q := (4096 * r + s.clock.vCmd16 / 2) / s.clock.vCmd16
    let w := s.expr.w256.get h
    (settledTrack s (swellTrack h) = true → (stage1 s h b).1 = min (w + q) (s.expr.wMax * 256))
      ∧ (settledTrack s (swellTrack h) = false → (stage1 s h b).1 = max ((w : Int) - q) 0)
      ∧ (stage1 s h b).2 = min (vget s.expr.steps b 0 + (stage1 s h b).1 / 256) 1023
      ∧ (w ≤ s.expr.wMax * 256 → (stage1 s h b).1 ≤ s.expr.wMax * 256))
  ∧ (∀ (ln : Line) (s : State),
    let t := takeSamples ln s
    let sampled := fun i => (vget s.reading.filters i .closed).sample s.reading.onRun s.reading.offRun ln.number
      (ln.image.getLsbD i)
    (∀ i, i < 100 → vget t.reading.filters i .closed = (sampled i).1)
      ∧ t.reading.specks
        = min (s.reading.specks + (List.range 100).countP fun i => (sampled i).2 == FilterEvent.speck) 65535
      ∧ t = { s with reading := { s.reading with filters := t.reading.filters, specks := t.reading.specks } })
  ∧ ∀ (n : Nat) (s : State),
    let t := shadeLine n s
    let bit := fun i w => if settledTrack s i then w else 0
    let raw := fun (h : Half) => match h with
      | .bass => bit 0 1 + bit 1 2 + bit 2 4
      | .treble => bit 97 4 + bit 98 2 + bit 99 1
    (∀ i, settledTrack s i = true ↔
        vget s.reading.filters i .closed = .opened ∨ ∃ c l, vget s.reading.filters i .closed = .closing c l)
      ∧ (∀ h,
        ((t.reading.debouncers.get h, t.expr.b.get h)
            = (s.reading.debouncers.get h).take s.reading.stepStable (raw h) (s.expr.b.get h))
          ∧ (t.expr.w256.get h, t.expr.level.get h) = stage1 s h (t.expr.b.get h))
      ∧ t = { s with
          reading := { s.reading with debouncers := t.reading.debouncers, history := t.reading.history }
          expr := { s.expr with b := t.expr.b, w256 := t.expr.w256, level := t.expr.level } }

/-- Stages 2 and 3 (R71, R73 to R76): the level of a strike after the trims, in 0..1023 always; and, for a voicing entry
that passes validation, the pulse width, the cap and the flight time with their bounds.  Creating events (R89 to R92,
R150): a strike, a release and a pedal event join the end of the Timeline with these figures, a MUTE key and a close
without an open note create nothing, and no creation moves the owner counts against the sounding tracks (R88).  That the
creation sequence goes on from 0 past its 32 bits is the model's choice (log 18), and so is that an entry joins a Timeline
of 256 entries too, which R93 never has (log 33). -/
def Obligations.StrikesAreTrimmedAndVoiced : Prop :=
  (∀ (e : Expression) (track level : Nat),
    let h := trackHalf e track
    (track < e.splitKey → h = .bass) ∧ (e.splitKey ≤ track → h = .treble) ∧ trimmedLevel e h level ≤ 1023
      ∧ (h = .bass →
          (trimmedLevel e h level : Int) = max 0 (min 1023 ((level * e.gain / 128 : Nat) + -4 * e.balance)))
      ∧ (h = .treble →
          (trimmedLevel e h level : Int) = max 0 (min 1023 ((level * e.gain / 128 : Nat) + 4 * e.balance))))
    ∧ (∀ (v : Voicing) (level : Nat), level ≤ 1023 → v.e0 + 100 ≤ v.e1 → v.tLoud ≤ v.tSoft →
      strikePw10 v level = (v.e0 + ((v.e1 - v.e0) * level + 511) / 1023 + 5) / 10
        ∧ (v.e0 + 5) / 10 ≤ strikePw10 v level ∧ strikePw10 v level ≤ (v.e1 + 5) / 10
        ∧ strikePw10 v 0 = (v.e0 + 5) / 10 ∧ strikePw10 v 1023 = (v.e1 + 5) / 10
        ∧ capPw10 v = (v.e0 + (v.e1 - v.e0) / 4 + 5) / 10 ∧ (v.e0 + 5) / 10 ≤ capPw10 v
        ∧ flightTime v level = v.tLoud + (v.tSoft - v.tLoud) * (1023 - level) * (1023 - level) / 1046529
        ∧ v.tLoud ≤ flightTime v level ∧ flightTime v level ≤ v.tSoft
        ∧ flightTime v 0 = v.tSoft ∧ flightTime v 1023 = v.tLoud)
    ∧ (∀ (n level line : Nat) (caught : Option Nat) (s : State), n < 88 →
      let t := createStrike n level caught line s
      let v := liveVoicing s (chooseKey s n)
      let l := trimmedLevel s.expr (trackHalf s.expr n) level
      let due := match caught with
        | some position => position
        | none => line * 256 - flightTime v l * s.clock.vCmd16 / 625
      let body := EntryBody.strike
        { track := n, key := chooseKey s n, pw10 := strikePw10 v l, cap10 := capPw10 v, level := l
          caught := caught.isSome, restrike := false, offPending := false, held := 0 }
      (v.mute = true → t = s)
        ∧ (v.mute = false →
          t.sched.timeline.map (fun e => (e.body, e.due, e.seq))
              = s.sched.timeline.map (fun e => (e.body, e.due, e.seq)) ++ [(body, due, s.sched.nextSeq)]
            ∧ t.sched.nextSeq = (s.sched.nextSeq + 1) % 4294967296
            ∧ ((track s n).state = .silent →
                track t n = ⟨.pending, false, chooseKey s n, some s.sched.nextSeq, some s.sched.nextSeq, 0⟩)
            ∧ ((track s n).state ≠ .silent →
                track t n
                  = { track s n with openNote := some s.sched.nextSeq, queued := (track s n).queued + 1 })
            ∧ (∀ m, m ≠ n → track t m = track s m)
            ∧ t = { s with
                sched :=
                  { s.sched with timeline := t.sched.timeline, nextSeq := t.sched.nextSeq, tracks := t.sched.tracks } })
        ∧ (s.ownersOk → t.ownersOk))
    ∧ (∀ (n line : Nat) (s : State), n < 88 →
      (∀ x ∈ s.reading.history, x.line = line → (s.reading.history.map (·.line)).Nodup →
          noteOnset n line s = createStrike n (x.levels.get (trackHalf s.expr n)) none line s)
        ∧ ((track s n).openNote = none → noteClose n line s = s)
        ∧ (∀ q, (track s n).openNote = some q →
            let t := noteClose n line s
            let r := track s n
            let void := decide (r.state = .interrupted ∧ r.inForce = some q)
            let due := line * 256 - (liveVoicing s r.key).dampLead * s.clock.vCmd16 / 625
            t.sched.timeline.map (fun e => (e.body, e.due, e.seq))
                = s.sched.timeline.map (fun e => (e.body, e.due, e.seq))
                  ++ [(.release ⟨n, r.key, q, void⟩, due, s.sched.nextSeq)]
              ∧ (track t n).openNote = none
              ∧ (r.inForce = some q → r.state = .pending → (track t n).releaseQueued = true)
              ∧ (r.inForce = some q → r.state = .sounding → (track t n).state = .releasing)
              ∧ (r.inForce ≠ some q ∨ r.state ∉ [.pending, .sounding] → track t n = { r with openNote := none })
              ∧ (∀ m, m ≠ n → track t m = track s m) ∧ t.sched.keys = s.sched.keys ∧ (s.ownersOk → t.ownersOk)))
    ∧ ∀ (pd : Pedal) (line : Nat) (s : State),
      let made := fun (t : State) (body : EntryBody) (lead : Nat) =>
        t.sched.timeline.map (fun e => (e.body, e.due, e.seq))
            = s.sched.timeline.map (fun e => (e.body, e.due, e.seq))
              ++ [(body, line * 256 - lead * s.clock.vCmd16 / 625, s.sched.nextSeq)]
          ∧ t.sched.tracks = s.sched.tracks ∧ t.sched.keys = s.sched.keys ∧ t.pedals = s.pedals
      made (pedalOnset pd line s) (.lift pd) (s.tables.live.pedals.get pd).liftLead
        ∧ made (pedalClose pd line s) (.drop pd) (s.tables.live.pedals.get pd).dropLead

/-- The manual's worked figures: the frames of TEMPO 1050 and of its answer (R185), the CRC of the byte 0x01 (R58), and
one bass strike (section 4.6). -/
def Obligations.WorkedFiguresAreAsPrinted : Prop :=
  (encodeRequest (.tempo .c 1050#16) = [0x24#8, 0x02#8, 0x1A#8, 0x04#8, 0x04#8]
    ∧ Response.bytes ⟨.done, natBytes 2 1050 ++ natBytes 2 8064⟩
      = [0x00#8, 0x04#8, 0x1A#8, 0x04#8, 0x80#8, 0x1F#8, 0xB9#8]
    ∧ crcByte 0xFFFF#16 0x01#8 = 0x7078#16)
  ∧ let v := Voicing.builtIn
    strikePw10 v 662 = 254 ∧ flightTime v 662 = 243 ∧ timeToRoll 243 7680 = 2985 ∧ strikeDue 20000 243 7680 = 5117015
      ∧ capPw10 v = 135 ∧ staleLimit 7680 = 30720 ∧ leadDue 20600 300 7680 = 5269914 ∧ pulseDistance 254 7680 = 927
      ∧ rgapDistance 400 7680 = 4916 ∧ lateTolerance 7680 = 122 ∧ releaseCountdown 400 = 40 ∧ strikeCountdown 210 = 8

/-- TRIM (R72). -/
def Obligations.TrimClampsGainAndBalance : Prop :=
  ∀ (p : Port) (gain balance : BitVec 16) (s : State), s.takesRequests →
    ∃ t, exec (.trim p gain balance) s = .next t
      ∧ t.expr.gain = min gain.toNat 255 ∧ t.expr.balance = max (-64) (min 64 balance.toInt)
      ∧ t.answer p
        = some ⟨if t.expr.gain = gain.toNat ∧ t.expr.balance = balance.toInt then .done else .clamped,
            [BitVec.ofNat 8 t.expr.gain, BitVec.ofInt 8 t.expr.balance]⟩
      ∧ sameButAnswer p { s with expr := { s.expr with gain := t.expr.gain, balance := t.expr.balance } } t

/-- TRANSPOSE (R86), and the key a strike is given (R87): on a SILENT track n + t, an octave lower past 87 and an octave
higher below 0; on any other the key recorded. -/
def Obligations.TransposeClampsTheFigure : Prop :=
  (∀ (p : Port) (semitones : Byte) (s : State), s.takesRequests →
    ∃ t, exec (.transpose p semitones) s = .next t
      ∧ t.sched.transposition = max (-6) (min 6 semitones.toInt)
      ∧ t.answer p
        = some ⟨if t.sched.transposition = semitones.toInt then .done else .clamped,
            [BitVec.ofInt 8 t.sched.transposition]⟩
      ∧ sameButAnswer p { s with sched := { s.sched with transposition := t.sched.transposition } } t)
    ∧ (∀ (s : State) (n : Nat),
        ((track s n).state = .silent → chooseKey s n = foldKey n s.sched.transposition)
          ∧ ((track s n).state ≠ .silent → chooseKey s n = (track s n).key))
    ∧ ∀ (n : Nat) (t : Int), n < 88 → -6 ≤ t → t ≤ 6 →
        foldKey n t < 88
          ∧ (0 ≤ (n : Int) + t → (n : Int) + t ≤ 87 → (foldKey n t : Int) = n + t)
          ∧ (87 < (n : Int) + t → (foldKey n t : Int) = n + t - 12)
          ∧ ((n : Int) + t < 0 → (foldKey n t : Int) = n + t + 12)

/-! ### The roll requests -/

/-- LOAD (R4 and the rules it names): where it is taken, what it sets and what it keeps; elsewhere it is refused.  From
ENDED it has the full effect of STOP first, the flush of the ring among it (R40). -/
def Obligations.LoadStartsTheRoll : Prop :=
  ∀ (p : Port) (s : State), s.takesRequests →
    (s.clock.state ≠ .empty → s.clock.state ≠ .ended → refusedWith p (.load p) .refusedState s)
      ∧ (s.clock.state = .empty → s.intake.attached = false → refusedWith p (.load p) .refusedState s)
      ∧ (s.clock.state = .ended ∨ s.clock.state = .empty ∧ s.intake.attached = true →
        ∃ t, exec (.load p) s = .next t ∧ t.answer p = some ⟨.done, []⟩
          ∧ (t.clock.state = .leader ∧ t.clock.p = 0 ∧ t.clock.nIn = 0 ∧ t.clock.lineHeld = false
            ∧ t.clock.signatureTaken = false ∧ t.clock.endLine = none ∧ t.clock.c = 0 ∧ t.clock.starvations = 0
            ∧ t.clock.discontinuities = 0 ∧ t.clock.tau = s.clock.tau ∧ t.clock.vNom16 = (liveProfile s 0).vNom16
            ∧ t.clock.readAhead = (liveProfile s 0).readAhead
            ∧ t.clock.vCmd16 = commandedRate t.clock.vNom16 s.clock.tau)
          ∧ (t.clock.directive.kind = .run ∧ t.clock.directive.rate = t.clock.vCmd16 ∧ t.clock.directive.seekStart = 0
            ∧ (t.clock.directive = s.clock.directive
              ∨ t.clock.directive.seq = s.clock.directive.seq + 1 ∧ attended .directive t))
          ∧ (scheduleClear t ∧ ownersClear t ∧ keysCleared s t
            ∧ t.sched.lateStrikes = 0 ∧ t.sched.staleDrops = 0 ∧ t.sched.restrikes = 0
            ∧ t.sched.transposition = s.sched.transposition)
          ∧ (t.intake.lastImage = 0#104 ∧ t.intake.endStop = false ∧ t.intake.state = .running
            ∧ t.intake.linesConsumed = 0 ∧ t.intake.gapsFilled = 0 ∧ t.intake.damaged = 0 ∧ t.intake.duplicates = 0
            ∧ t.intake.attached = s.intake.attached ∧ t.intake.base = s.intake.base ∧ t.intake.q = s.intake.q
            ∧ t.intake.policy = s.intake.policy)
          ∧ (t.reading.history = [] ∧ t.reading.signature = 0xFFFF#16 ∧ t.reading.signatureValid = true
            ∧ t.reading.specks = 0 ∧ (∀ f ∈ t.reading.filters.toList, f = .closed)
            ∧ t.reading.debouncers = ⟨⟨none, 0⟩, ⟨none, 0⟩⟩ ∧ t.reading.onRun = (liveProfile s 0).onRun
            ∧ t.reading.offRun = (liveProfile s 0).offRun ∧ t.reading.stepStable = (liveProfile s 0).stepStable
            ∧ t.reading.leaderMask = s.tables.live.leaderMask)
          ∧ (t.expr.b = ⟨0, 0⟩ ∧ t.expr.w256 = ⟨0, 0⟩
            ∧ t.expr.level = ⟨vget (liveProfile s 0).steps 0 0, vget (liveProfile s 0).steps 0 0⟩
            ∧ t.expr.gain = s.expr.gain ∧ t.expr.balance = s.expr.balance
            ∧ t.expr.splitKey = (liveProfile s 0).splitKey ∧ t.expr.steps = (liveProfile s 0).steps
            ∧ t.expr.wMax = (liveProfile s 0).wMax ∧ t.expr.upSlow = (liveProfile s 0).upSlow
            ∧ t.expr.upFast = (liveProfile s 0).upFast ∧ t.expr.downSlow = (liveProfile s 0).downSlow
            ∧ t.expr.downFast = (liveProfile s 0).downFast)
          ∧ ((∀ q ∈ t.cues.live.toList, q.armed = q.appliedArmed ∧ q.hits = 0) ∧ t.cues.last = none)
          ∧ (t.tables.appliedProfile = 0 ∧ t.tables.live = s.tables.live ∧ t.tables.generation = s.tables.generation)
          ∧ (∀ pd, (t.pedals.get pd).roll = .up ∧ (t.pedals.get pd).override = (s.pedals.get pd).override)
          ∧ t.drive = { s.drive with thermalCaps := 0, suppressed := 0 }
          ∧ (t.seek.shorts = 0 ∧ t.seek.prime = (liveProfile s 0).prime) ∧ t.test.phase = .none ∧ t.check = s.check
          ∧ (s.clock.state = .empty →
              t.intake.index = s.intake.index ∧ t.intake.owned = s.intake.owned
                ∧ (∀ pd, (t.pedals.get pd).state = (s.pedals.get pd).state ∧ (t.pedals.get pd).duty = (s.pedals.get pd).duty
                    ∧ (t.pedals.get pd).ownRequest = (s.pedals.get pd).ownRequest)
                ∧ memoryKept (fun a => ∀ i, i < 32 → outsideBlock (cueCounterAddr i) 2 a) s t)
          ∧ (s.clock.state = .ended → pedalsRest t ∧ t.clock.autoPlay = false)
          ∧ (s.clock.state = .ended → s.intake.attached = true → s.ringOk →
              t.intake.index = 0 ∧ t.intake.owned = 0
                ∧ (∀ i, i < s.intake.q → slotOwn (slotControl s i) = true →
                    slotControl t i = slotControl s i &&& 0xFE#8
                      ∧ readByte t (slotAddr s.intake i + 19)
                        = statusByte .flushed (slotWrap (slotControl s i) != decide (i + 1 = s.intake.q)))
                ∧ memoryKept (fun a => (∀ i, i < 32 → outsideBlock (cueCounterAddr i) 2 a)
                    ∧ ∀ i, i < s.intake.q → slotOwn (slotControl s i) = true →
                      a ≠ slotAddr s.intake i ∧ a ≠ slotAddr s.intake i + 19) s t))

/-- PLAY (R7): by the roll state, and, where PLAYING is entered, by what P stands at. -/
def Obligations.PlayActsByTheState : Prop :=
  ∀ (p : Port) (s : State), s.takesRequests →
    (s.clock.state = .playing →
        ∃ t, exec (.play p) s = .next t ∧ t.answer p = some ⟨.done, []⟩ ∧ sameButAnswer p s t)
      ∧ (s.clock.state ∉ [.ready, .paused, .playing] → refusedWith p (.play p) .refusedState s)
      ∧ (s.clock.state ∈ [.ready, .paused] →
        ∃ t, exec (.play p) s = .next t ∧ t.answer p = some ⟨.done, []⟩ ∧ sameBeyondPlayAnswer p s t
          ∧ t.clock.nIn = s.clock.nIn ∧ t.test.phase = .none ∧ t.clock.directive.rate = s.clock.vCmd16
          ∧ (s.clock.p < s.clock.nIn * 256 → (∀ e, s.clock.endLine = some e → s.clock.p < e * 256) →
              t.clock.state = .playing ∧ t.clock.p = s.clock.p ∧ t.clock.c = s.clock.c
                ∧ t.clock.directive.kind = if s.clock.backedUp then .hold else .run)
          ∧ (s.clock.nIn * 256 ≤ s.clock.p → (∀ e, s.clock.endLine = some e → s.clock.p < e * 256) →
              t.clock.state = .starved ∧ t.clock.p = s.clock.nIn * 256 ∧ t.clock.c = 0
                ∧ t.clock.starvations = min (s.clock.starvations + 1) 65535 ∧ attended .starved t)
          ∧ (∀ e, s.clock.endLine = some e → e * 256 ≤ s.clock.p →
              t.clock.state = .ended ∧ t.clock.p = e * 256 ∧ t.clock.directive.kind = .stop ∧ attended .ended t
                ∧ scheduleClear t ∧ ownersClear t ∧ pedalsRest t)
          ∧ (s.clock.state = .paused → t.clock.state ≠ .ended → ∀ pd, (s.pedals.get pd).state = .rest →
              (s.pedals.get pd).target = .down →
                (t.pedals.get pd).state = .waitingSlot ∧ (t.pedals.get pd).ownRequest = true))

/-- PAUSE (R9, R101, R102, R135): play freezes, each sounding track is marked INTERRUPTED with its share of the owner count
given back and its release made void, a key so left without owners has its OFF to be recorded, the pedals rest and keep
their roll states, and no strike leaves the Timeline.  Marking and clearing keep the owner counts equal to the sounding
tracks (R88); both leave an OFF to be recorded where a key loses its last owner (R101, R103, R104), and the record that the
next build makes of it has issue position none (`recordOff`, in `Obligations.GrantedStrikesIssueOrAreDropped`). -/
def Obligations.PauseFreezesPlay : Prop :=
  (∀ (p : Port) (s : State), s.takesRequests →
    (s.clock.state = .paused →
        ∃ t, exec (.pause p) s = .next t ∧ t.answer p = some ⟨.done, []⟩ ∧ sameButAnswer p s t)
      ∧ (s.clock.state ∉ [.playing, .starved, .paused] → refusedWith p (.pause p) .refusedState s)
      ∧ (s.clock.state ∈ [.playing, .starved] →
        ∃ t, exec (.pause p) s = .next t ∧ t.answer p = some ⟨.done, []⟩ ∧ sameBeyondPlayAnswer p s t
          ∧ t.clock = { s.clock with state := .paused, directive := t.clock.directive }
          ∧ t.clock.directive.kind = .stop
          ∧ (∀ n, n < 88 →
              track t n = if (track s n).sounds then { track s n with state := .interrupted } else track s n)
          ∧ (∀ k, k < 88 →
              let share := (List.range 88).countP fun n => (track s n).sounds && (track s n).key == k
              keyRec t k
                = { keyRec s k with
                    owners := (keyRec s k).owners - share
                    offDue := (keyRec s k).offDue || decide (1 ≤ share ∧ (keyRec s k).owners ≤ share) })
          ∧ (∀ e ∈ s.sched.timeline, ∀ b, e.body = .release b → ∃ e' ∈ t.sched.timeline,
              e'.seq = e.seq ∧ e'.due = e.due ∧ e'.body = .release { b with void := b.void || marksRelease s b })
          ∧ pedalsRest t
          ∧ (∀ pd, (t.pedals.get pd).roll = (s.pedals.get pd).roll ∧ (t.pedals.get pd).ownRequest = false
              ∧ (t.pedals.get pd).override = (s.pedals.get pd).override)
          ∧ (∀ e ∈ s.sched.timeline, ∀ b, e.body = .strike b → ∃ e' ∈ t.sched.timeline, e'.body = e.body ∧ e'.seq = e.seq)
          ∧ t.sched.lateStrikes = s.sched.lateStrikes ∧ t.sched.staleDrops = s.sched.staleDrops
          ∧ t.sched.restrikes = s.sched.restrikes ∧ t.sched.transposition = s.sched.transposition ∧ t.test = s.test
          ∧ (s.ownersOk → t.ownersOk ∧ ownersClear t)))
    ∧ ∀ s : State, (∀ n, s.ownersOk → (markInterrupted n s).ownersOk) ∧ (emptyTimeline s).ownersOk
        ∧ (clearSchedule s).ownersOk
        ∧ (∀ n, n < 88 →
            let r := track s n
            let t := markInterrupted n s
            (r.sounds = false → t = s)
              ∧ (r.sounds = true →
                track t n = { r with state := .interrupted }
                  ∧ (∀ m, m ≠ n → track t m = track s m)
                  ∧ (r.key < 88 →
                      keyRec t r.key
                        = { keyRec s r.key with
                            owners := (keyRec s r.key).owners - 1
                            offDue := (keyRec s r.key).offDue || decide ((keyRec s r.key).owners ≤ 1) })
                  ∧ (∀ k, k ≠ r.key → keyRec t k = keyRec s k)
                  ∧ t.sched.timeline.length = s.sched.timeline.length
                  ∧ (∀ (i : Nat) (e : Entry), s.sched.timeline[i]? = some e →
                      (∀ b, e.body = .release b → b.track = n → r.inForce = some b.paired →
                          t.sched.timeline[i]? = some { e with body := .release { b with void := true } })
                        ∧ ((∀ b, e.body = .release b → b.track ≠ n ∨ r.inForce ≠ some b.paired) →
                            t.sched.timeline[i]? = some e))
                  ∧ t = { s with
                      sched :=
                        { s.sched with
                          tracks := t.sched.tracks, keys := t.sched.keys, timeline := t.sched.timeline } }))
        ∧ (∀ k, k < 88 →
            keyRec (emptyTimeline s) k
              = { keyRec s k with
                  owners := 0, offDue := (keyRec s k).offDue || decide (1 ≤ (keyRec s k).owners) })
        ∧ scheduleClear (emptyTimeline s) ∧ scheduleClear (clearSchedule s) ∧ keysCleared s (clearSchedule s)

/-- STOP (R10, R40, R103, R129, R135): taken in every roll state; the schedule is cleared, with an OFF to be recorded for
every key that had an owner and every issue position none, and an attached ring's owned slots come back FLUSHED. -/
def Obligations.StopReturnsToEmpty : Prop :=
  ∀ (p : Port) (s : State), s.takesRequests → s.ringOk →
    ∃ t, exec (.stop p) s = .next t ∧ t.answer p = some ⟨.done, []⟩
      ∧ (t.clock.state = .empty ∧ t.clock.p = 0 ∧ t.clock.nIn = 0 ∧ t.clock.c = 0 ∧ t.clock.lineHeld = false
        ∧ t.clock.signatureTaken = false ∧ t.clock.autoPlay = false ∧ t.clock.endLine = none
        ∧ t.clock.directive.kind = .stop ∧ t.clock.vNom16 = s.clock.vNom16 ∧ t.clock.readAhead = s.clock.readAhead
        ∧ t.clock.tau = s.clock.tau ∧ t.clock.vCmd16 = s.clock.vCmd16 ∧ t.clock.starvations = s.clock.starvations
        ∧ t.clock.discontinuities = s.clock.discontinuities)
      ∧ (scheduleClear t ∧ ownersClear t ∧ keysCleared s t ∧ t.sched.transposition = s.sched.transposition
        ∧ t.sched.lateStrikes = s.sched.lateStrikes ∧ t.sched.staleDrops = s.sched.staleDrops
        ∧ t.sched.restrikes = s.sched.restrikes)
      ∧ (pedalsRest t ∧ ∀ pd, (t.pedals.get pd).roll = .up ∧ (t.pedals.get pd).override = (s.pedals.get pd).override)
      ∧ (s.intake.attached = true →
          t.intake = { s.intake with index := 0, owned := 0, endStop := false, state := .running }
            ∧ t.clock.backedUp = false
            ∧ (∀ i, i < s.intake.q → slotOwn (slotControl s i) = true →
                slotControl t i = slotControl s i &&& 0xFE#8
                  ∧ readByte t (slotAddr s.intake i + 19)
                    = statusByte .flushed (slotWrap (slotControl s i) != decide (i + 1 = s.intake.q)))
            ∧ memoryKept (fun a => ∀ i, i < s.intake.q → slotOwn (slotControl s i) = true →
                a ≠ slotAddr s.intake i ∧ a ≠ slotAddr s.intake i + 19) s t)
      ∧ (s.intake.attached = false → t.intake = s.intake ∧ t.mem = s.mem)
      ∧ t.drive = s.drive ∧ t.expr = s.expr ∧ t.reading = s.reading ∧ t.cues = s.cues ∧ t.tables = s.tables
      ∧ t.seek = s.seek ∧ t.check = s.check
      ∧ t.test = { s.test with phase := if s.test.phase = .waiting then .none else s.test.phase }

/-- TEMPO (R11, R3): the trim, the commanded rate and the answer; the entries of the Timeline keep their due positions. -/
def Obligations.TempoSetsTheRate : Prop :=
  ∀ (p : Port) (perMille : BitVec 16) (s : State), s.takesRequests →
    ∃ t, exec (.tempo p perMille) s = .next t
      ∧ t.clock.tau = max 500 (min 1500 perMille.toNat)
      ∧ t.clock.vCmd16 = max 1280 (min 19200 ((s.clock.vNom16 * t.clock.tau + 500) / 1000))
      ∧ t.answer p
        = some ⟨if t.clock.tau = perMille.toNat ∧ t.clock.vCmd16 = (s.clock.vNom16 * t.clock.tau + 500) / 1000 then .done
            else .clamped, natBytes 2 t.clock.tau ++ natBytes 2 t.clock.vCmd16⟩
      ∧ t.clock.directive.rate = t.clock.vCmd16
      ∧ (s.directiveOk → t.clock.vCmd16 = s.clock.vCmd16 → t.clock.directive = s.clock.directive)
      ∧ (t.sched.timeline.map fun e => (e.seq, e.due)).Sublist (s.sched.timeline.map fun e => (e.seq, e.due))
      ∧ sameButSettledAnswer p { s with clock := { s.clock with tau := t.clock.tau, vCmd16 := t.clock.vCmd16 } } t

/-- STEP MODE ON and STEP MODE OFF (R15). -/
def Obligations.StepModeIsEnteredAndLeft : Prop :=
  ∀ (p : Port) (s : State), s.takesRequests →
    (s.clock.state ∈ [.ready, .paused] →
        ∃ t, exec (.stepModeOn p) s = .next t ∧ t.answer p = some ⟨.done, []⟩ ∧ t.clock.state = .stepping
          ∧ t.clock.p = s.clock.p ∧ t.test.phase = .none
          ∧ t.clock.directive.kind = (if s.clock.nIn - s.clock.p / 256 < 64 then .run else .hold)
          ∧ sameButSettledAnswer p
              { s with clock := { s.clock with state := .stepping }, test := { s.test with phase := .none } } t)
      ∧ (s.clock.state = .stepping →
        ∃ t, exec (.stepModeOn p) s = .next t ∧ t.answer p = some ⟨.done, []⟩ ∧ sameButAnswer p s t)
      ∧ (s.clock.state ∉ [.ready, .paused, .stepping] → refusedWith p (.stepModeOn p) .refusedState s)
      ∧ (s.clock.state = .stepping →
        ∃ t, exec (.stepModeOff p) s = .next t ∧ t.answer p = some ⟨.done, []⟩ ∧ t.clock.state = .paused
          ∧ t.clock.p = s.clock.p ∧ t.clock.directive.kind = .stop ∧ t.pedals = s.pedals
          ∧ t.sched.timeline.map (·.seq) = s.sched.timeline.map (·.seq)
          ∧ sameButSettledAnswer p { s with clock := { s.clock with state := .paused } } t)
      ∧ (s.clock.state ≠ .stepping → refusedWith p (.stepModeOff p) .refusedState s)

/-- STEP (R16): its refusals; a step that crosses no armed cue goes to min(P + 256·n, N_in·256), or ends the roll at E·256
(R18); the first cue crossed ends it where that is a STOP or a LOOP.  NOTICE cues crossed fire one by one and the step goes
on to the first STOP or LOOP, or to its end (R141, R142).  That a step with P already at E·256 ends the roll there, and that
a STOP cue on the end line is taken before the end (R143 allows either), are the model's choice, log 16. -/
def Obligations.StepMovesByWholeLines : Prop :=
  ∀ (p : Port) (count : Byte) (s : State), s.takesRequests →
    let n := count.toNat
    let x := min (s.clock.p + 256 * n) (s.clock.nIn * 256)
    let c := Instr.step p count
    (s.clock.state ≠ .stepping → refusedWith p c .refusedState s)
      ∧ (s.clock.state = .stepping → ¬(1 ≤ n ∧ n ≤ 64) → refusedWith p c .refusedRange s)
      ∧ (s.clock.state = .stepping → 1 ≤ n → n ≤ 64 → crossings s s.clock.p x = [] →
          ∃ t, exec c s = .next t ∧ sameBeyondPlayAnswer p s t ∧ t.clock.nIn = s.clock.nIn ∧ t.clock.c = s.clock.c
            ∧ t.answer p = some ⟨.done, natBytes 1 (t.clock.p / 256 - s.clock.p / 256)⟩
            ∧ ((∀ e, s.clock.endLine = some e → x < e * 256) → t.clock.p = x ∧ t.clock.state = .stepping
                ∧ t.clock.directive.kind = if s.clock.nIn - x / 256 < 64 then .run else .hold)
            ∧ (∀ e, s.clock.endLine = some e → e * 256 ≤ x → t.clock.p = e * 256 ∧ t.clock.state = .ended
                ∧ t.clock.directive.kind = .stop ∧ attended .ended t ∧ scheduleClear t ∧ ownersClear t ∧ pedalsRest t))
      ∧ (∀ i rest, s.clock.state = .stepping → 1 ≤ n → n ≤ 64 → crossings s s.clock.p x = i :: rest →
          let line := (cueAt s i).line
          ((cueAt s i).action = .stop →
            ∃ t, exec c s = .next t ∧ t.answer p = some ⟨.done, natBytes 1 (line - s.clock.p / 256)⟩
              ∧ t.clock.state = .paused ∧ t.clock.p = line * 256 ∧ t.cues.last = some i ∧ attended .cue t ∧ pedalsRest t)
            ∧ ((cueAt s i).action = .loop →
              ∃ t, exec c s = .next t ∧ t.answer p = some ⟨.done, natBytes 1 (line - s.clock.p / 256)⟩
                ∧ t.clock.state = .seeking ∧ t.clock.p = line * 256 ∧ t.clock.autoPlay = true
                ∧ t.seek.target = max 64 (cueAt s i).target ∧ t.cues.last = some i ∧ attended .cue t ∧ scheduleClear t))
      ∧ (∀ notices rest, s.clock.state = .stepping → 1 ≤ n → n ≤ 64 → crossings s s.clock.p x = notices ++ rest →
          notices ≠ [] → (∀ i ∈ notices, (cueAt s i).action = .notice) →
          let fired := fun (i : Nat) =>
            { cueAt s i with hits := min ((cueAt s i).hits + 1) 65535, armed := (cueAt s i).armed && !(cueAt s i).once }
          ∃ t, exec c s = .next t ∧ attended .cue t
            ∧ (∀ i ∈ notices, cueAt t i = fired i)
            ∧ (∀ i, i ∉ notices ++ rest → cueAt t i = cueAt s i)
            ∧ (rest = [] →
                t.cues.last = notices.getLast? ∧ t.answer p = some ⟨.done, natBytes 1 (t.clock.p / 256 - s.clock.p / 256)⟩
                  ∧ ((∀ e, s.clock.endLine = some e → x < e * 256) → t.clock.p = x ∧ t.clock.state = .stepping)
                  ∧ (∀ e, s.clock.endLine = some e → e * 256 ≤ x → t.clock.p = e * 256 ∧ t.clock.state = .ended))
            ∧ ∀ j later, rest = j :: later → (cueAt s j).action ≠ .notice →
                let line := (cueAt s j).line
                t.cues.last = some j ∧ cueAt t j = fired j ∧ (∀ i ∈ later, cueAt t i = cueAt s i)
                  ∧ t.clock.p = line * 256 ∧ t.answer p = some ⟨.done, natBytes 1 (line - s.clock.p / 256)⟩
                  ∧ ((cueAt s j).action = .stop → t.clock.state = .paused)
                  ∧ ((cueAt s j).action = .loop → t.clock.state = .seeking ∧ t.clock.autoPlay = true
                      ∧ t.seek.target = max 64 (cueAt s j).target))

/-- SEEK (R145, R41, R103, R135): refused in EMPTY and LEADER; elsewhere the seek is taken, the schedule is cleared, with an
OFF to be recorded for every key that had an owner and every issue position none, and the unbroken run of owned slots at
the consume index comes back FLUSHED. -/
def Obligations.SeekIsTaken : Prop :=
  ∀ (p : Port) (target : BitVec 32) (autoPlay : Byte) (s : State), s.takesRequests →
    let c := Instr.seek p target autoPlay
    let held := match s.clock.state with
      | .playing | .starved => true
      | .seeking | .preroll => s.clock.autoPlay
      | _ => false
    (s.clock.state ∈ [.empty, .leader] → refusedWith p c .refusedState s)
      ∧ (s.clock.state ∉ [.empty, .leader] → s.ringOk →
        ∃ t, exec c s = .next t
          ∧ t.seek.target = max 64 target.toNat ∧ t.seek.start = max 64 (t.seek.target - s.seek.prime)
          ∧ t.seek.prime = s.seek.prime ∧ t.seek.shorts = s.seek.shorts
          ∧ t.answer p
            = some ⟨if target.toNat < 64 then .clamped else .done, natBytes 4 t.seek.target ++ natBytes 4 t.seek.start⟩
          ∧ (t.clock.state = .seeking ∧ t.clock.p = s.clock.p ∧ t.clock.nIn = s.clock.nIn ∧ t.clock.c = s.clock.c
            ∧ t.clock.lineHeld = s.clock.lineHeld ∧ t.clock.endLine = none
            ∧ t.clock.autoPlay = (held || autoPlay.getLsbD 0))
          ∧ (t.clock.directive.kind = .seek ∧ t.clock.directive.rate = s.clock.vCmd16
            ∧ t.clock.directive.seekStart = t.seek.start)
          ∧ (scheduleClear t ∧ ownersClear t ∧ keysCleared s t ∧ t.sched.transposition = s.sched.transposition
            ∧ t.sched.lateStrikes = s.sched.lateStrikes ∧ t.sched.staleDrops = s.sched.staleDrops
            ∧ t.sched.restrikes = s.sched.restrikes)
          ∧ (pedalsRest t ∧ ∀ pd, (t.pedals.get pd).roll = (s.pedals.get pd).roll
              ∧ (t.pedals.get pd).override = (s.pedals.get pd).override)
          ∧ (t.intake = { s.intake with index := t.intake.index, owned := t.intake.owned, endStop := false }
            ∧ (s.intake.attached = true → ∃ m, m ≤ s.intake.q
                ∧ (let slot := fun k => (s.intake.index + k) % s.intake.q;
                  (∀ k, k < m → slotOwn (slotControl s (slot k)) = true)
                  ∧ (m < s.intake.q → slotOwn (slotControl s (slot m)) = false)
                  ∧ t.intake.index = slot m ∧ t.intake.owned = s.intake.owned - m
                  ∧ (∀ k, k < m → slotControl t (slot k) = slotControl s (slot k) &&& 0xFE#8
                      ∧ readByte t (slotAddr s.intake (slot k) + 19)
                        = statusByte .flushed (slotWrap (slotControl s (slot k)) != decide (slot k + 1 = s.intake.q)))
                  ∧ memoryKept (fun a => ∀ k, k < m →
                      a ≠ slotAddr s.intake (slot k) ∧ a ≠ slotAddr s.intake (slot k) + 19) s t))
            ∧ (s.intake.attached = false → t.mem = s.mem ∧ t.intake = { s.intake with endStop := false }))
          ∧ t.test.phase = .none ∧ t.drive = s.drive ∧ t.expr = s.expr ∧ t.reading = s.reading ∧ t.cues = s.cues
          ∧ t.tables = s.tables ∧ t.check = s.check)

/-! ### Events of the advance -/

/-- STARVATION (R13) and END_OF_ROLL (R18).  Each is taken where P stands at its position, and in PLAYING also where nothing
that P meets lies before it, P then advancing to it first (the model's reading of the rows, assumption log 7); elsewhere
nothing happens.  That END_OF_ROLL ends a STEPPING roll whose P stands at E·256 is the model's choice, log 16.  Where the
arrival crosses armed cues the event is taken first and they fire after it in the same step (R143 allows either order;
the model's choice, log 17). -/
def Obligations.StarvationAndEndOfRollTakePlace : Prop :=
  (∀ s : State, s.clock.state = .playing → s.clock.endLine ≠ some s.clock.nIn →
    let x := s.clock.nIn * 256
    s.clock.p = x ∨ s.clock.p < x ∧ clearTo s x = true ∧ crossings s s.clock.p x = [] →
      ∃ t, exec .starvation s = .next t
        ∧ t.clock.state = .starved ∧ t.clock.p = x ∧ t.clock.nIn = s.clock.nIn ∧ t.clock.c = 0
        ∧ t.clock.starvations = min (s.clock.starvations + 1) 65535 ∧ attended .starved t
        ∧ t.clock.directive.kind = (if s.clock.backedUp then .hold else .run)
        ∧ t.sched.tracks = s.sched.tracks ∧ t.sched.keys = s.sched.keys
        ∧ t.playAside = s.playAside)
    ∧ (∀ (s : State) (i : Nat) (rest : List Nat), s.clock.state = .playing → s.clock.endLine ≠ some s.clock.nIn →
      s.clock.p < s.clock.nIn * 256 → clearTo s (s.clock.nIn * 256) = true →
      crossings s s.clock.p (s.clock.nIn * 256) = i :: rest →
      ∃ t, exec .starvation s = .next t
        ∧ t.clock.p = s.clock.nIn * 256 ∧ t.clock.c = 0 ∧ attended .starved t ∧ attended .cue t
        ∧ t.clock.starvations = min (s.clock.starvations + 1) 65535
        ∧ ((cueAt s i).action = .stop → t.clock.state = .paused ∧ t.cues.last = some i)
        ∧ ((cueAt s i).action = .loop → t.clock.state = .seeking ∧ t.clock.autoPlay = true ∧ t.cues.last = some i)
        ∧ ((∀ j ∈ i :: rest, (cueAt s j).action = .notice) → t.clock.state = .starved))
    ∧ (∀ s : State, s.clock.state ≠ .playing ∨ s.clock.endLine = some s.clock.nIn
        ∨ s.clock.nIn * 256 < s.clock.p ∨ s.clock.p < s.clock.nIn * 256 ∧ clearTo s (s.clock.nIn * 256) = false →
      exec .starvation s = .next s)
    ∧ (∀ (s : State) (e : Nat), s.clock.endLine = some e →
      s.clock.state ∈ [.playing, .stepping] ∧ s.clock.p = e * 256
        ∨ s.clock.state = .playing ∧ s.clock.p < e * 256 ∧ e ≤ s.clock.nIn ∧ clearTo s (e * 256) = true
          ∧ crossings s s.clock.p (e * 256) = [] →
      ∃ t, exec .endOfRoll s = .next t
        ∧ t.clock.state = .ended ∧ t.clock.p = e * 256 ∧ t.clock.nIn = s.clock.nIn ∧ attended .ended t
        ∧ t.clock.directive.kind = .stop ∧ scheduleClear t ∧ ownersClear t ∧ pedalsRest t
        ∧ (∀ pd, (t.pedals.get pd).roll = .up ∧ (t.pedals.get pd).override = (s.pedals.get pd).override)
        ∧ t.playAside = s.playAside)
    ∧ (∀ (s : State) (e i : Nat) (rest : List Nat), s.clock.endLine = some e → s.clock.state = .playing →
      s.clock.p < e * 256 → e ≤ s.clock.nIn → clearTo s (e * 256) = true →
      crossings s s.clock.p (e * 256) = i :: rest →
      ∃ t, exec .endOfRoll s = .next t ∧ t.clock.p = e * 256 ∧ attended .ended t ∧ attended .cue t ∧ scheduleClear t
        ∧ ((cueAt s i).action = .stop → t.clock.state = .ended ∧ t.cues.last = some i)
        ∧ ((cueAt s i).action = .loop → t.clock.state = .seeking ∧ t.clock.autoPlay = true ∧ t.cues.last = some i)
        ∧ ((∀ j ∈ i :: rest, (cueAt s j).action = .notice) → t.clock.state = .ended))
    ∧ (∀ s : State, s.clock.endLine = none ∨ s.clock.state ∉ [.playing, .stepping] → exec .endOfRoll s = .next s)
    ∧ ∀ (s : State) (e : Nat), s.clock.endLine = some e →
      s.clock.state = .stepping ∧ s.clock.p ≠ e * 256
        ∨ s.clock.state = .playing
          ∧ (e * 256 < s.clock.p ∨ s.clock.p < e * 256 ∧ (s.clock.nIn < e ∨ clearTo s (e * 256) = false)) →
      exec .endOfRoll s = .next s

/-- CUE_FIRE (R142, R138, R140, R141).  Which cues a movement of P crosses and in what order; P comes up to the next line
with an armed cue, where nothing P meets lies before it, and the cues of that line fire in their order up to the first STOP
or LOOP; elsewhere nothing happens.  Where the line is also N_in or the end line, the cues come first and play that goes on
starves or ends there in the same step (R13, R18; R143 allows either order).  That the row moves P to the cue's line and
fires there in the same step is the model's reading (log 7, log 17).  Every firing records and mirrors, and each action adds
its effect. -/
def Obligations.CrossedCuesFire : Prop :=
  (∀ (s : State) (p0 p1 : Nat),
    (∀ i, i ∈ crossings s p0 p1 ↔
      i < 32 ∧ (cueAt s i).armed = true ∧ (cueAt s i).action ≠ .none ∧ p0 < (cueAt s i).line * 256
        ∧ (cueAt s i).line * 256 ≤ p1)
      ∧ (crossings s p0 p1).Pairwise fun i j =>
          (cueAt s i).line < (cueAt s j).line ∨ (cueAt s i).line = (cueAt s j).line ∧ i < j)
  ∧ (∀ (s : State) (x i : Nat) (rest : List Nat), s.clock.state = .playing → x ≤ s.clock.nIn * 256 →
    clearTo s x = true → s.ringOk → s.positionOk → crossings s s.clock.p x = i :: rest → (cueAt s i).line * 256 = x →
      ∃ t, exec .cueFire s = .next t ∧ t.clock.p = x ∧ t.clock.nIn = s.clock.nIn ∧ attended .cue t
        ∧ cueAt t i
          = { cueAt s i with hits := min ((cueAt s i).hits + 1) 65535, armed := (cueAt s i).armed && !(cueAt s i).once }
        ∧ readBytes t (cueCounterAddr i) 2 = natBytes 2 (cueAt t i).hits
        ∧ ((cueAt s i).action = .stop → t.cues.last = some i ∧ t.clock.state = .paused ∧ t.clock.c = s.clock.c
            ∧ t.clock.directive.kind = .stop ∧ pedalsRest t ∧ (∀ j, j ≠ i → cueAt t j = cueAt s j)
            ∧ memoryKept (outsideBlock (cueCounterAddr i) 2) s t)
        ∧ ((cueAt s i).action = .loop → t.cues.last = some i ∧ t.clock.state = .seeking ∧ t.clock.autoPlay = true
            ∧ t.seek.target = max 64 (cueAt s i).target
            ∧ t.seek.start = max 64 (t.seek.target - s.seek.prime) ∧ t.clock.endLine = none
            ∧ t.clock.directive.kind = .seek ∧ scheduleClear t ∧ ownersClear t ∧ pedalsRest t
            ∧ (∀ j, j ≠ i → cueAt t j = cueAt s j))
        ∧ ((∀ j ∈ i :: rest, (cueAt s j).action = .notice) →
            (s.clock.endLine ≠ some (x / 256) → x < s.clock.nIn * 256 →
                t.clock.state = .playing ∧ t.clock.c = s.clock.c)
              ∧ (s.clock.endLine = some (x / 256) → t.clock.state = .ended ∧ attended .ended t)
              ∧ (s.clock.endLine ≠ some (x / 256) → x = s.clock.nIn * 256 →
                  t.clock.state = .starved ∧ t.clock.c = 0 ∧ attended .starved t
                    ∧ t.clock.starvations = min (s.clock.starvations + 1) 65535)
              ∧ t.cues.last = (i :: rest).getLast?
              ∧ (∀ j, j ∉ i :: rest → cueAt t j = cueAt s j)
              ∧ (∀ a, (∀ j ∈ i :: rest, outsideBlock (cueCounterAddr j) 2 a) → readByte t a = readByte s a)
              ∧ ∀ j ∈ i :: rest, (cueAt t j).hits = min ((cueAt s j).hits + 1) 65535))
  ∧ (∀ s : State, s.clock.state ≠ .playing
      ∨ (∀ i, i < 32 → (cueAt s i).fires = true →
          (cueAt s i).line * 256 ≤ s.clock.p ∨ s.clock.nIn * 256 < (cueAt s i).line * 256
            ∨ clearTo s ((cueAt s i).line * 256) = false) →
      exec .cueFire s = .next s)
  ∧ (∀ (i : Nat) (rest : List Nat) (s : State), fireCues [] s = s
      ∧ ((cueAt s i).action ∈ [.stop, .loop] → fireCues (i :: rest) s = fireCue i s)
      ∧ ((cueAt s i).action ∈ [.none, .notice] → fireCues (i :: rest) s = fireCues rest (fireCue i s)))
  ∧ ∀ (s : State) (i : Nat), i < 32 → s.ringOk →
      let t := fireCue i s
      t.cues.last = some i ∧ attended .cue t
      ∧ cueAt t i
        = { cueAt s i with hits := min ((cueAt s i).hits + 1) 65535, armed := (cueAt s i).armed && !(cueAt s i).once }
      ∧ (∀ j, j ≠ i → cueAt t j = cueAt s j)
      ∧ readBytes t (cueCounterAddr i) 2 = natBytes 2 (cueAt t i).hits
      ∧ ((cueAt s i).action = .notice
            ∨ (cueAt s i).action = .stop ∧ s.clock.state ∉ [.playing, .starved, .stepping]
            ∨ (cueAt s i).action = .loop ∧ s.clock.state ∈ [.empty, .leader] →
          t = { s with
              mem := t.mem
              cues := t.cues
              ports := s.ports.map fun r => { r with pending := r.pending ||| Attention.cue.set } }
            ∧ memoryKept (outsideBlock (cueCounterAddr i) 2) s t)
      ∧ ((cueAt s i).action = .stop → s.clock.state ∈ [.playing, .starved, .stepping] →
          t.clock = { s.clock with state := .paused } ∧ pedalsRest t
            ∧ (∀ n, n < 88 → (track s n).sounds = true → (track t n).state = .interrupted)
            ∧ memoryKept (outsideBlock (cueCounterAddr i) 2) s t)
      ∧ ((cueAt s i).action = .loop → s.clock.state ∉ [.empty, .leader] →
          t.clock.state = .seeking ∧ t.clock.autoPlay = true ∧ t.clock.p = s.clock.p
            ∧ t.seek.target = max 64 (cueAt s i).target ∧ t.seek.start = max 64 (t.seek.target - s.seek.prime)
            ∧ t.clock.endLine = none ∧ scheduleClear t ∧ ownersClear t ∧ pedalsRest t)

/-- The per-key order (R94): an entry behind an earlier one of its key or pedal stays BLOCKED, the head turns WAITING with
the release position of R95; eligibility (R96); and HAND_ON (R96, R100, R130): an eligible entry is handed on; a strike on
a key that sounds becomes a restrike instead, and a lift moves its pedal or is cancelled.  Where a key's OFF is still to be
recorded it counts as released with issue position none (the model's choice, log 11). -/
def Obligations.EligibleEntriesAreHandedOn : Prop :=
  (∀ (s : State) (i : Nat) (e : Entry), s.sched.timeline[i]? = some e →
    let t := refreshHeads s
    let v := s.clock.vCmd16
    let behind := ∃ j x, j < i ∧ s.sched.timeline[j]? = some x ∧ x.lane = e.lane
      ∧ ¬(x.state = .released ∧ ∃ pd, x.body = .lift pd)
    let waits := e.state ≠ .blocked ∨ e.offPending = true ∨ behind
    (waits → t.sched.timeline[i]? = some e)
      ∧ (¬waits → ∃ pos, t.sched.timeline[i]? = some { e with state := .waiting, releasePos := pos }
          ∧ (∀ b, e.body = .strike b →
              let r := keyRec s b.key
              (∀ q, r.offDue = false → r.last = .release → r.lastPos = some q →
                  pos = max e.due (q + ((liveVoicing s b.key).rgap * v + 624) / 625))
                ∧ (r.offDue = true ∨ r.last ≠ .release ∨ r.lastPos = none → pos = e.due))
          ∧ (∀ b, e.body = .release b →
              let r := keyRec s b.key
              (∀ q, r.offDue = false → r.last = .strike → r.lastPos = some q →
                  pos = max e.due (q + ((r.lastPw10 + 500) * v + 6249) / 6250))
                ∧ (r.offDue = true ∨ r.last ≠ .strike ∨ r.lastPos = none → pos = e.due))
          ∧ ∀ pd, e.body = .lift pd ∨ e.body = .drop pd → pos = e.due))
  ∧ (∀ (s : State) (e : Entry), eligible s e = true ↔
      e.state = .waiting ∧ s.clock.state ∈ [.playing, .starved, .stepping] ∧ e.releasePos ≤ s.clock.p
        ∧ (∀ b, e.body = .strike b → (keyRec s b.key).offDue = false ∧
            ((keyRec s b.key).last = .release → (keyRec s b.key).countdown = 0))
        ∧ (∀ b, e.body = .release b → (keyRec s b.key).offDue = false → (keyRec s b.key).last = .strike →
            (keyRec s b.key).countdown = 0))
  ∧ ∀ (s : State) (e : Entry), (s.sched.timeline.map (·.seq)).Nodup → e ∈ (refreshHeads s).sched.timeline →
    eligible (refreshHeads s) e = true →
      ∃ t, exec .handOn s = .next t ∧ sameButSettled s t
        ∧ (∀ b, e.body = .strike b → b.restrike = true ∨ (keyRec s b.key).owners = 0 →
            { e with state := .released } ∈ t.sched.timeline)
        ∧ (∀ b, e.body = .strike b → b.restrike = false → 1 ≤ (keyRec s b.key).owners →
            { e with state := .blocked, body := .strike { b with restrike := true, offPending := true } }
                ∈ t.sched.timeline
              ∧ (s.sched.restrikes < 65535 → s.sched.restrikes < t.sched.restrikes))
        ∧ (∀ b, e.body = .release b → { e with state := .released } ∈ t.sched.timeline)
        ∧ (∀ pd, e.body = .drop pd → { e with state := .released } ∈ t.sched.timeline)
        ∧ ∀ pd, e.body = .lift pd →
            (t.pedals.get pd).roll = .down
              ∧ ((s.pedals.get pd).override = .off → ∀ x ∈ t.sched.timeline, x.seq ≠ e.seq)
              ∧ ((s.pedals.get pd).state ≠ .rest → ∀ x ∈ t.sched.timeline, x.seq ≠ e.seq)
              ∧ ((s.pedals.get pd).override ≠ .off → (s.pedals.get pd).state = .rest →
                  (t.pedals.get pd).state = .waitingSlot)

/-! ### Pedals, drive and service -/

/-- PEDAL OVERRIDE (R134): the override is set and the pedal moves toward its target in the same event; codes that name no
pedal or no mode are refused.  At a frame build a drop rests the pedal unless it is held ON (R131), and a lift granted a
slot kicks with the figures then live (R132). -/
def Obligations.PedalOverrideMovesThePedal : Prop :=
  (∀ (p : Port) (pedal mode : Byte) (s : State), s.takesRequests →
    let c := Instr.pedalOverride p pedal mode
    let pd : Pedal := if pedal.toNat = 0 then .damper else .shift
    let other : Pedal := if pedal.toNat = 0 then .shift else .damper
    let m : Override := if mode.toNat = 0 then .roll else if mode.toNat = 1 then .on else .off
    let r := s.pedals.get pd
    let down := m = .on ∨ m = .roll ∧ r.roll = .down
    (2 ≤ pedal.toNat ∨ 3 ≤ mode.toNat → refusedWith p c .refusedRange s)
      ∧ (pedal.toNat < 2 → mode.toNat < 3 →
        ∃ t, exec c s = .next t ∧ t.answer p = some ⟨.done, []⟩
          ∧ (t.pedals.get pd).override = m
          ∧ (t.pedals.get other).override = (s.pedals.get other).override
          ∧ (t.pedals.get other).duty = (s.pedals.get other).duty
          ∧ (t.pedals.get other).ownRequest = (s.pedals.get other).ownRequest
          ∧ (down → r.state = .rest → (t.pedals.get pd).state = .waitingSlot ∧ (t.pedals.get pd).ownRequest = true)
          ∧ (down → r.state ≠ .rest → (t.pedals.get pd).state = r.state ∧ (t.pedals.get pd).duty = r.duty
              ∧ (t.pedals.get pd).ownRequest = r.ownRequest)
          ∧ (m = .off ∨ m = .roll ∧ r.roll = .up ∧ (∀ e ∈ s.sched.timeline, e.body ≠ .lift pd) →
              (t.pedals.get pd).state = .rest
                ∧ (r.state ≠ .rest → (t.pedals.get pd).duty = 0 ∧ (t.pedals.get pd).ownRequest = false))
          ∧ sameButSettledAnswer p { s with pedals := t.pedals } t))
    ∧ (∀ (e : Entry) (pd : Pedal) (s : State),
      let t := issueDrop e pd s
      let r := s.pedals.get pd
      (∀ x ∈ t.sched.timeline, x.seq ≠ e.seq) ∧ (t.pedals.get pd).roll = .up
        ∧ (t.pedals.get pd).override = r.override
        ∧ (r.override ≠ .on → (t.pedals.get pd).state = .rest ∧ (t.pedals.get pd).duty = 0
            ∧ (t.pedals.get pd).ownRequest = false ∧ (∀ b ∈ t.drive.busy, b.holder ≠ .kick pd)
            ∧ ∀ x ∈ t.sched.timeline, x.body = .lift pd → x.state ≠ .released)
        ∧ (r.override = .on → t.pedals.get pd = { r with roll := .up } ∧ t.drive = s.drive)
        ∧ t.sched.keys = s.sched.keys ∧ t.sched.tracks = s.sched.tracks)
    ∧ ∀ (pd : Pedal) (s : State),
      let t := offerLift s pd
      let f := (s.tables.live.pedals.get pd).figures
      let unused := place s (pedalOutput pd) = .unused
      let granted := (s.pedals.get pd).state = .waitingSlot ∧ (unused ∨ s.drive.busy.length < s.tables.live.drive.k)
      (¬granted → t = s)
        ∧ (granted → (t.pedals.get pd).state = .kick ∧ (t.pedals.get pd).figures = f
            ∧ (t.pedals.get pd).duty = f.kickDuty ∧ (t.pedals.get pd).countdown = f.kickTime
            ∧ (t.pedals.get pd).ownRequest = false
            ∧ (∀ x ∈ t.sched.timeline, x.body = .lift pd → x.state ≠ .released)
            ∧ t.drive
              = { s.drive with
                  busy := if unused then s.drive.busy
                    else s.drive.busy ++ [⟨.kick pd, s.timing.build + f.kickTime⟩] })

/-- FRAME_BUILD (R109, R121, R117, R111): the stages in their order.  Stage 1 judges the four echoes in turn; stage 4
records the OFFs due, issues releases and drops until none stands, records the OFFs of restrikes and leaves a key in PULSE
or HOLD only to an owner or to the running test pulse (R97, R100, R101, R115); stage 5 offers the DAMPER lift, the SHIFT
lift, the test pulse, then, in PLAYING, STARVED and STEPPING, the waiting strikes by release position, higher L' and lower
key (R111, R113).  A changed map ends a test pulse whose output it moved, puts a key output whose place changed OFF, heat
kept, where it was in PULSE or is UNUSED now, frees the slots of a pulse so cut and of the kick of a pedal newly UNUSED,
and leaves every other output as it was (R120, R137, R184).  Stages 2 and 3 are stated with the rows that are parts of
them, in `Obligations.BuildPartsActOnTheItemDue`.  Each chain is sent a frame of 50 bytes under its sequence number, whose
slots are what the mapped outputs give (R116, R119), all OFF where the chain is not ONLINE; heat moves by what the frames
carry, and THERMAL attention is raised where it crosses the limit (R117, R118); the busy slots stay within K and every
heat within 4000; what no stage of a build touches is kept.  Nine points are the model's choices, not rules of the manual:
that a build begins with `accruePause`, the wait of due strikes (log 32), that stage 4 records, before the releases, the
OFFs that stood when the build began, `offsDue` (log 12), that a changed map is taken before stage 1, `takeMap` (log 34),
that the mark `moved` ends a test pulse there (log 31), that a kick on a pedal output newly wired takes no slot (log 27),
that the grant walk is over the waiting set as it stands when the strikes' turn comes (log 29), that a channel marked as a
test whose phase has ended goes OFF (log 25), that a cut frees both slots of a key whose strike's pulse a test pulse
restarted (log 30), and that stage 5 grants also what waits on an output that this build has put to OFF or REST, a lift
already due behind a drop of stage 4 for one, so that the frame carries its drive and no OFF (log 35). -/
def Obligations.FrameBuildSendsEveryChainAFrame : Prop :=
  (∀ s : State, ∃ t u, exec .frameBuild s = .next t
    ∧ (let begun := accruePause { s with timing := { s.timing with phase := 0, build := s.timing.build + 1 } };
      u = stageGrants (stageReleases (offsDue begun) (stageEnds (stageCountdowns (stageEchoes (takeMap begun))))))
    ∧ t = settle (stageFrames u)
    ∧ (∀ c, c < 4 →
        let r := chainRec t c
        let q := (chainRec s c).seq
        r.state = (chainRec u c).state ∧ r.wire = driveFrame q (frameSlots u c) ∧ r.wire.length = 50
          ∧ (r.state ≠ .online → ∀ x ∈ frameSlots u c, x = .off)
          ∧ r.wire.getD 49 0#8 = (r.wire.take 49).foldl (fun a b => a ^^^ b) 0x3C#8
          ∧ r.lastSent = some (q, r.wire.getD 49 0#8) ∧ r.echo = .none ∧ r.seq = q + 1)
    ∧ (∀ k, k < 88 → (channel t k).heat
        = min ((channel u k).heat + heatAdded u k) 4000 - s.tables.live.drive.cooling)
    ∧ t.drive.pedalHeat
      = ⟨min (u.drive.pedalHeat.damper + heatAdded u 88) 4000 - s.tables.live.drive.cooling,
         min (u.drive.pedalHeat.shift + heatAdded u 89) 4000 - s.tables.live.drive.cooling⟩
    ∧ ((∃ o, o < 90 ∧ outputHeat u o < s.tables.live.drive.hLim ∧ s.tables.live.drive.hLim ≤ outputHeat t o) →
        attended .thermal t)
    ∧ ((∀ o, o < 90 → s.tables.live.drive.hLim ≤ outputHeat u o ∨ outputHeat t o < s.tables.live.drive.hLim) →
        ∀ p, (t.ports.get p).pending &&& Attention.thermal.set = (s.ports.get p).pending &&& Attention.thermal.set)
    ∧ (s.drive.busy.length ≤ s.tables.live.drive.k → t.drive.busy.length ≤ s.tables.live.drive.k)
    ∧ t.heatOk
    ∧ t.timing = { s.timing with phase := 0, build := s.timing.build + 1 }
    ∧ t.clock = { s.clock with directive := t.clock.directive }
    ∧ t.seek = s.seek ∧ t.intake = s.intake ∧ t.reading = s.reading ∧ t.expr = s.expr ∧ t.cues = s.cues
    ∧ t.tables = s.tables ∧ t.mem = s.mem ∧ t.settings = s.settings ∧ t.sched.transposition = s.sched.transposition
    ∧ ∀ p, (t.ports.get p).response = (s.ports.get p).response ∧ (t.ports.get p).window = (s.ports.get p).window
        ∧ (t.ports.get p).mask = (s.ports.get p).mask)
  ∧ (∀ (u : State) (c j : Nat), c < 4 → j < 24 →
      (frameSlots u c)[j]? = some (frameSlot u c j)
        ∧ ((chainRec u c).state ≠ .online → frameSlot u c j = .off)
        ∧ ((∀ o, o < 90 → place u o ≠ .wired c j) → frameSlot u c j = .off)
        ∧ ∀ o, o < 90 → (chainRec u c).state = .online → place u o = .wired c j →
            (∀ o', o' < o → place u o' ≠ .wired c j) → frameSlot u c j = outputSlot u o)
  ∧ (∀ (u : State) (k : Nat), k < 88 →
      let r := channel u k
      let hold := (liveVoicing u k).holdDuty
      let duty := if u.tables.live.drive.hWarn ≤ r.heat then hold / 2 else hold
      (r.state = .off → outputSlot u k = .off)
        ∧ (r.state = .pulse → r.start = u.timing.build → outputSlot u k = .pulse r.pw10)
        ∧ (r.state = .pulse → r.start ≠ u.timing.build → outputSlot u k = .hold (if r.test then 0 else duty))
        ∧ (r.state = .hold → outputSlot u k = .hold duty))
  ∧ (∀ (u : State) (pd : Pedal),
      let r := u.pedals.get pd
      let duty := if u.tables.live.drive.hWarn ≤ u.drive.pedalHeat.get pd then r.duty / 2 else r.duty
      (r.state ∈ [.rest, .waitingSlot] → outputSlot u (pedalOutput pd) = .off)
        ∧ (r.state ∈ [.kick, .ease] → outputSlot u (pedalOutput pd) = .hold r.duty)
        ∧ (r.state = .hold → outputSlot u (pedalOutput pd) = .hold duty))
  ∧ (∀ (u : State) (o : Nat), o < 90 →
      ((∀ c j, place u o = .wired c j → (chainRec u c).state ≠ .online) → heatAdded u o = 0)
        ∧ ∀ c j, place u o = .wired c j → (chainRec u c).state = .online →
          (outputSlot u o = .off → heatAdded u o = 0)
            ∧ (∀ w, outputSlot u o = .pulse w → heatAdded u o = w)
            ∧ (∀ d, outputSlot u o = .hold d → o < 88 → (channel u o).state = .pulse → heatAdded u o = 0)
            ∧ (∀ d, outputSlot u o = .hold d → 88 ≤ o ∨ (channel u o).state ≠ .pulse → heatAdded u o = d / 16))
  ∧ (∀ s : State,
      let m := endMovedTest s
      let t := takeMap s
      let changed := fun o => vget s.drive.builtMap o .unused ≠ place s o
      let cut := fun k => k < 88 ∧ changed k ∧ ((channel m k).state = .pulse ∨ place s k = .unused)
      let dropped := fun pd => changed (pedalOutput pd) ∧ place s (pedalOutput pd) = .unused
      let frees := fun (b : BusySlot) =>
        (∃ k, cut k ∧ (channel m k).state = .pulse ∧ (b.holder = .strike k ∨ b.holder = .test k))
          ∨ ∃ pd, dropped pd ∧ b.holder = .kick pd
      (∀ k, cut k → channel t k = { channel m k with state := .off, test := false })
        ∧ (∀ k, ¬cut k → channel t k = channel m k)
        ∧ t.drive.busy.Sublist m.drive.busy
        ∧ (∀ b ∈ t.drive.busy, ¬frees b)
        ∧ (∀ b, ¬frees b → t.drive.busy.count b = m.drive.busy.count b)
        ∧ t.drive.builtMap = s.tables.live.map
        ∧ t = { m with
            drive :=
              { m.drive with
                channels := t.drive.channels, busy := t.drive.busy, builtMap := t.drive.builtMap } })
  ∧ (∀ s : State, stageEchoes s = judgeEcho (judgeEcho (judgeEcho (judgeEcho s 0) 1) 2) 3)
  ∧ (∀ (due : List Nat) (s : State),
      let recorded := due.foldl recordOff s
      let issued := if recorded.clock.state ∈ [.playing, .starved, .stepping] then
          issueRounds recorded.sched.timeline.length recorded
        else recorded
      let t := stageReleases due s
      t = handOnAll ((List.range 88).foldl dropIdle ((List.range 88).foldl restrikeOff issued))
        ∧ (recorded.clock.state ∈ [.playing, .starved, .stepping] → ∀ e ∈ issued.sched.timeline, e.issues = false)
        ∧ ∀ k, k < 88 →
            ((channel t k).state ≠ .off → (channel t k).test = false → 1 ≤ (keyRec t k).owners)
              ∧ ((channel t k).state ≠ .off → (channel t k).test = true → t.test.phase = .running ∧ t.test.output = k)
              ∧ ((channel t k).state ≠ .off → channel t k = channel s k)
              ∧ ((channel t k).state = .off → (channel t k).heat = (channel s k).heat
                  ∧ ((channel s k).state = .pulse → ∀ b ∈ t.drive.busy, b.holder ≠ .strike k ∧ b.holder ≠ .test k)))
  ∧ (∀ (n : Nat) (s : State),
      let standing := s.sched.timeline.filter Entry.issues
      (standing = [] → issueRounds n s = s)
        ∧ (standing ≠ [] → issueRounds (n + 1) s = issueRounds n (handOnAll ((dueOrder standing).foldl issueEntry s)))
        ∧ (dueOrder standing).Perm standing
        ∧ (dueOrder standing).Pairwise fun x y => x.due ≤ y.due)
  ∧ (∀ (s : State) (e : Entry),
      (e.issues = true ↔ e.state = .released ∧ ((∃ b, e.body = .release b) ∨ ∃ pd, e.body = .drop pd))
        ∧ (∀ b, e.body = .release b → issueEntry s e = issueRelease e b s)
        ∧ ∀ pd, e.body = .drop pd → issueEntry s e = issueDrop e pd s)
  ∧ ∀ s : State,
      let lifted := offerTest (offerLift (offerLift s .damper) .shift)
      (s.clock.state ∈ [.playing, .starved, .stepping] →
          stageGrants s = handOnAll ((waitingStrikes lifted).foldl offerStrike lifted))
        ∧ (s.clock.state ∉ [.playing, .starved, .stepping] → stageGrants s = handOnAll lifted)
        ∧ (∀ e ∈ waitingStrikes s, e.state = .released ∧ ∃ b, e.body = .strike b)
        ∧ (∀ e b, e.body = .strike b → e.state = .released → (waitingStrikes s).count e = s.sched.timeline.count e)
        ∧ (waitingStrikes s).Pairwise fun x y => ∀ a b, x.body = .strike a → y.body = .strike b →
            x.releasePos < y.releasePos
              ∨ x.releasePos = y.releasePos ∧ (b.level < a.level ∨ a.level = b.level ∧ a.key ≤ b.key)

/-- A strike at its turn in the grant order (R98, R99, R113, R115, R118, R126), with a slot free or on an UNUSED output,
which needs none: above the stale limit it is dropped, and its paired release is made void, the open note that it is
answers none and the note that it is finishes; otherwise it issues, and its pulse starts where its chain is ONLINE, at the
cap where the channel is hot; on a chain not ONLINE it is suppressed; either way it takes a slot to the build at which its
delivered or stored width has run (R112), and on an UNUSED output nothing is driven.  With no slot free it stays (R111).
A release issues or, void, is discarded (R97); the OFF of a restrike and the OFF of a key left without owners are recorded
as release issues (R100, R101).  A grant and a release keep the owner counts equal to the sounding tracks (R88).  That a
strike issuing on a key whose OFF is still to be recorded replaces that OFF is the model's inference (log 12).  Lateness
is P minus the due position and the roll of the builds the strike has waited, in PAUSED with its due position passed or,
caught, in any state but PLAYING with its due position reached, so that more than 250 such builds drop it (R102, R150);
that the wait counts so, and no other wait, is the model's settling of R98 with R96, R102, R113 and R150 (log 32). -/
def Obligations.GrantedStrikesIssueOrAreDropped : Prop :=
  (∀ (s : State) (e : Entry) (b : StrikeBody), e.body = .strike b → b.key < 88 →
    place s b.key = .unused ∨ 0 < freeSlots s →
    let t := offerStrike s e
    let late := s.clock.p - e.due + 2 * s.clock.vCmd16 * b.held / 125
    let hot := s.tables.live.drive.hLim ≤ (channel s b.key).heat
    let pw := if outputOnline s b.key = true ∧ hot then min b.pw10 b.cap10 else b.pw10
    (∀ x ∈ t.sched.timeline, x.seq ≠ e.seq)
      ∧ (4 * s.clock.vCmd16 < late →
          t.sched.staleDrops = min (s.sched.staleDrops + 1) 65535 ∧ t.sched.keys = s.sched.keys ∧ t.drive = s.drive
            ∧ t.ports = s.ports
            ∧ (t.sched.timeline.map (·.seq) = (s.sched.timeline.map (·.seq)).filter (· ≠ e.seq))
            ∧ (∀ x r, x ∈ s.sched.timeline → x.seq ≠ e.seq → x.body = .release r → r.paired = e.seq →
                { x with body := .release { r with void := true } } ∈ t.sched.timeline)
            ∧ (∀ x r, x ∈ t.sched.timeline → x.body = .release r → r.paired = e.seq → r.void = true)
            ∧ (∀ x, x ∈ s.sched.timeline → x.seq ≠ e.seq → (∀ r, x.body = .release r → r.paired ≠ e.seq) →
                x ∈ t.sched.timeline)
            ∧ (b.track < 88 →
                let r := track s b.track
                (track t b.track).openNote ≠ some e.seq
                  ∧ (r.inForce = some e.seq → (track t b.track).state ∈ [.silent, .pending])
                  ∧ (r.inForce ≠ some e.seq → track t b.track
                      = { r with openNote := if r.openNote = some e.seq then none else r.openNote }))
            ∧ ∀ n, n ≠ b.track → track t n = track s n)
      ∧ (251 ≤ b.held → 1280 ≤ s.clock.vCmd16 → 4 * s.clock.vCmd16 < late)
      ∧ (late ≤ 4 * s.clock.vCmd16 →
          keyRec t b.key
            = { keyRec s b.key with
                owners := (keyRec s b.key).owners + 1, last := .strike, lastPos := some s.clock.p, lastPw10 := b.pw10,
                countdown := (pw + 599) / 100, offDue := false }
          ∧ t.sched.staleDrops = s.sched.staleDrops
          ∧ t.sched.lateStrikes
            = (if 2 * s.clock.vCmd16 / 125 < late ∧ b.caught = false then min (s.sched.lateStrikes + 1) 65535
                else s.sched.lateStrikes)
          ∧ (∀ p, (t.ports.get p).worst
              = if b.caught then (s.ports.get p).worst else max (s.ports.get p).worst late)
          ∧ (place s b.key = .unused → t.drive = s.drive)
          ∧ (outputOnline s b.key = true →
              t.drive.busy = s.drive.busy ++ [⟨.strike b.key, s.timing.build + (pw + 99) / 100⟩]
                ∧ channel t b.key
                  = { channel s b.key with state := .pulse, pw10 := pw, start := s.timing.build, test := false }
                ∧ t.drive.suppressed = s.drive.suppressed
                ∧ t.drive.thermalCaps = if hot then min (s.drive.thermalCaps + 1) 65535 else s.drive.thermalCaps)
          ∧ (place s b.key ≠ .unused → outputOnline s b.key = false →
              t.drive.busy = s.drive.busy ++ [⟨.suppressed b.key, s.timing.build + (b.pw10 + 99) / 100⟩]
                ∧ t.drive.channels = s.drive.channels ∧ t.drive.suppressed = min (s.drive.suppressed + 1) 65535
                ∧ t.drive.thermalCaps = s.drive.thermalCaps)))
  ∧ (∀ (s : State) (e : Entry) (b : StrikeBody), e.body = .strike b → place s b.key ≠ .unused → freeSlots s = 0 →
      offerStrike s e = s)
  ∧ (∀ (s : State) (e : Entry) (b : StrikeBody), e.body = .strike b → b.key < 88 → b.track < 88 →
      (track s b.track).state = .pending → (track s b.track).key = b.key → s.ownersOk → (offerStrike s e).ownersOk)
  ∧ (∀ (s : State) (e : Entry) (b : ReleaseBody), b.key < 88 → b.track < 88 →
      let t := issueRelease e b s
      let r := track s b.track
      (∀ x ∈ t.sched.timeline, x.seq ≠ e.seq)
        ∧ (b.void = true → t.sched.keys = s.sched.keys)
        ∧ (b.void = false →
            keyRec t b.key
              = { keyRec s b.key with
                  owners := (keyRec s b.key).owners - 1, last := .release, lastPos := some s.clock.p,
                  countdown := ((liveVoicing s b.key).rgap + 9) / 10, offDue := false }
            ∧ ∀ k, k ≠ b.key → keyRec t k = keyRec s k)
        ∧ (r.inForce = some b.paired → (track t b.track).state ∈ [.silent, .pending])
        ∧ (r.inForce ≠ some b.paired → track t b.track = r)
        ∧ (∀ n, n ≠ b.track → track t n = track s n)
        ∧ t.drive = s.drive
        ∧ ((b.void = false → r.sounds = true ∧ r.key = b.key ∧ r.inForce = some b.paired) →
            (b.void = true → r.inForce = some b.paired → r.sounds = false) → s.ownersOk → t.ownersOk))
  ∧ (∀ s : State,
      let passed := fun (e : Entry) => e.due < s.clock.p ∨ e.due = s.clock.p ∧ e.state = .released
      let waits := fun (e : Entry) (b : StrikeBody) => s.clock.state = .paused ∧ passed e
        ∨ b.caught = true ∧ s.clock.state ≠ .playing ∧ e.due ≤ s.clock.p
      accruePause s = { s with sched := { s.sched with timeline := (accruePause s).sched.timeline } }
        ∧ ∀ (i : Nat) (e : Entry), s.sched.timeline[i]? = some e →
          (∀ b, e.body = .strike b → waits e b →
              (accruePause s).sched.timeline[i]? = some { e with body := .strike { b with held := b.held + 1 } })
            ∧ ((∀ b, e.body = .strike b → ¬waits e b) →
                (accruePause s).sched.timeline[i]? = some e))
  ∧ ∀ (s : State) (k : Nat), k < 88 →
      let waits := fun (e : Entry) => ∃ b, e.body = .strike b ∧ b.key = k ∧ b.offPending = true
      let rgap := (liveVoicing s k).rgap
      let resumed := fun (t : State) (pos : Nat → Nat) => ∀ (i : Nat) (e : Entry), s.sched.timeline[i]? = some e →
        (¬waits e → t.sched.timeline[i]? = some e)
          ∧ ∀ b, e.body = .strike b → b.key = k → b.offPending = true →
              t.sched.timeline[i]? = some { e with
                state := .waiting, releasePos := pos e.due, body := .strike { b with offPending := false } }
      let off := (∃ e ∈ s.sched.timeline, waits e) ∧ (keyRec s k).countdown = 0 ∧ (keyRec s k).offDue = false
      ((keyRec s k).offDue = false → recordOff s k = s)
        ∧ ((keyRec s k).offDue = true →
            keyRec (recordOff s k) k
                = { keyRec s k with last := .release, lastPos := none, countdown := (rgap + 9) / 10, offDue := false }
              ∧ resumed (recordOff s k) fun due => due)
        ∧ (¬off → restrikeOff s k = s)
        ∧ (off →
            keyRec (restrikeOff s k) k
                = { keyRec s k with
                    last := .release, lastPos := some s.clock.p, countdown := (rgap + 9) / 10, offDue := false }
              ∧ (channel (restrikeOff s k) k).state = .off
              ∧ resumed (restrikeOff s k) fun due => max due (s.clock.p + (rgap * s.clock.vCmd16 + 624) / 625))

/-- ECHO_RECEIVED (R122): with no result yet, the two bytes are compared with the last frame sent; a later echo is ignored.
At stage 1 of the next build the result is judged: good only where it is good, and the chain moves by its state (R123,
R124), marking the tracks sounding on it as it comes ONLINE (R126), which makes their releases void and leaves the OFFs of
keys so left without owners to be recorded (R101), and driving its keys OFF as it faults.  That a key cut in PULSE frees
both its slots, where a test pulse has restarted a strike's pulse, is the model's choice (log 30). -/
def Obligations.EchoesAreComparedWithTheFrameSent : Prop :=
  (∀ (c : Fin 4) (seq check : Byte) (framed : Bool) (s : State),
    ∃ t, exec (.echoReceived c seq check framed) s = .next t
      ∧ ((chainRec s c).echo ≠ .none → t = s)
      ∧ ((chainRec s c).echo = .none → framed = true → (chainRec s c).lastSent = some (seq, check) →
          chainRec t c = { chainRec s c with echo := .good })
      ∧ ((chainRec s c).echo = .none → framed = false ∨ (chainRec s c).lastSent ≠ some (seq, check) →
          chainRec t c = { chainRec s c with echo := .wrong })
      ∧ (∀ d, d ≠ c.val → chainRec t d = chainRec s d)
      ∧ t = { s with drive := { s.drive with chains := t.drive.chains } })
  ∧ ∀ (c : Nat) (s : State), c < 4 →
      let r := chainRec s c
      let t := judgeEcho s c
      let here := fun o => ∃ j, place s o = .wired c j
      (∀ d, d ≠ c → chainRec t d = chainRec s d)
        ∧ (r.state = .faulted → t = s)
        ∧ (r.state = .probing → r.echo ≠ .good → chainRec t c = { r with goodRun := 0 })
        ∧ (r.state = .probing → r.echo = .good → r.goodRun + 1 < 8 → chainRec t c = { r with goodRun := r.goodRun + 1 })
        ∧ (r.state = .probing → r.echo = .good → 8 ≤ r.goodRun + 1 →
            chainRec t c = { r with state := .online, goodRun := 8, badRun := 0 }
              ∧ (∀ n, n < 88 → here (track s n).key → (track s n).sounds = true →
                  track t n = { track s n with state := .interrupted })
              ∧ (∀ n, n < 88 → ¬here (track s n).key ∨ (track s n).sounds = false → track t n = track s n)
              ∧ (∀ k, k < 88 → here k → s.ownersOk →
                  keyRec t k
                    = { keyRec s k with
                        owners := 0, offDue := (keyRec s k).offDue || decide (1 ≤ (keyRec s k).owners) })
              ∧ (∀ k, k < 88 → ¬here k → keyRec t k = keyRec s k)
              ∧ t.sched.timeline.length = s.sched.timeline.length
              ∧ (∀ (i : Nat) (e : Entry), s.sched.timeline[i]? = some e →
                  (∀ b, e.body = .release b → here (track s b.track).key → marksRelease s b = true →
                      t.sched.timeline[i]? = some { e with body := .release { b with void := true } })
                    ∧ ((∀ b, e.body = .release b → ¬here (track s b.track).key ∨ marksRelease s b = false) →
                        t.sched.timeline[i]? = some e))
              ∧ t.drive.channels = s.drive.channels ∧ t.ports = s.ports ∧ (s.ownersOk → t.ownersOk))
        ∧ (r.state = .online → r.echo = .good → chainRec t c = { r with badRun := 0 })
        ∧ (r.state = .online → r.echo ≠ .good → r.badRun + 1 < 3 → chainRec t c = { r with badRun := r.badRun + 1 })
        ∧ (r.state = .online → r.echo ≠ .good → 3 ≤ r.badRun + 1 →
            chainRec t c = { r with state := .faulted, badRun := 3 } ∧ attended .chain t ∧ t.sched = s.sched
              ∧ t.pedals = s.pedals
              ∧ (∀ k, k < 88 → here k → (channel t k).state = .off ∧ (channel t k).heat = (channel s k).heat
                  ∧ ((channel s k).state = .pulse → ∀ b ∈ t.drive.busy, b.holder ≠ .strike k ∧ b.holder ≠ .test k))
              ∧ (∀ k, k < 88 → ¬here k → channel t k = channel s k)
              ∧ (here s.test.output → s.test.output < 88 → t.test.phase = .none))
        ∧ (r.state ≠ .probing ∨ r.echo ≠ .good ∨ r.goodRun + 1 < 8 →
            r.state ≠ .online ∨ r.echo = .good ∨ r.badRun + 1 < 3 →
            t = { s with drive := { s.drive with chains := t.drive.chains } })

/-- RESTART CHAIN (R125). -/
def Obligations.RestartChainActsByTheState : Prop :=
  ∀ (p : Port) (chain : Byte) (s : State), s.takesRequests →
    let c := chain.toNat
    (4 ≤ c → refusedWith p (.restartChain p chain) .refusedRange s)
      ∧ (c < 4 → (chainRec s c).state = .online → refusedWith p (.restartChain p chain) .refusedState s)
      ∧ (c < 4 → (chainRec s c).state ≠ .online →
        ∃ t, exec (.restartChain p chain) s = .next t ∧ t.answer p = some ⟨.done, []⟩
          ∧ chainRec t c = { chainRec s c with state := .probing, goodRun := 0 }
          ∧ (∀ d, d ≠ c → chainRec t d = chainRec s d)
          ∧ sameButAnswer p { s with drive := { s.drive with chains := t.drive.chains } } t)

/-- FRAME CRC (R180). -/
def Obligations.FrameCrcStartsTheCheck : Prop :=
  ∀ (p : Port) (chain count : Byte) (s : State), s.takesRequests →
    (4 ≤ chain.toNat ∨ count.toNat = 0 → refusedWith p (.frameCrc p chain count) .refusedRange s)
      ∧ (chain.toNat < 4 → 1 ≤ count.toNat →
        ∃ t, exec (.frameCrc p chain count) s = .next t ∧ t.answer p = some ⟨.done, []⟩
          ∧ sameButAnswer p { s with check := ⟨chain.toNat, count.toNat, 0xFFFF#16, 0#16, false⟩ } t)

/-- TEST PULSE (R182): its four tests in their order, and the pulse that waits when all pass.  At stage 5 of a build it is
granted where a slot is free, and its pulse starts at the width or the live cap (R183); a new map that moves its output
ends it at the next build (R184), where the map is taken (`takeMap` in `Obligations.FrameBuildSendsEveryChainAFrame`).  That
the grant asks for an ONLINE chain is read from R115 and R184, and the mark `moved` is the model's own (log 31); that the
slot of a strike's pulse which the test restarts stays busy beside the test's, and frees with it where the test is cut, is
the model's choice (log 30). -/
def Obligations.TestPulseMakesItsTestsInOrder : Prop :=
  (∀ (p : Port) (output : Byte) (pw10 : BitVec 16) (s : State), s.takesRequests →
    let c := Instr.testPulse p output pw10
    let inRange := output.toNat < 88 ∧ 1 ≤ pw10.toNat ∧ pw10.toNat ≤ 800
    let driven := ∃ chain channel, place s output.toNat = .wired chain channel ∧ (chainRec s chain).state = .online
    (¬inRange → refusedWith p c .refusedRange s)
      ∧ (inRange → s.clock.state ∉ [.empty, .paused] → refusedWith p c .refusedState s)
      ∧ (inRange → s.clock.state ∈ [.empty, .paused] → s.test.phase ≠ .none → refusedWith p c .refusedState s)
      ∧ (inRange → s.clock.state ∈ [.empty, .paused] → s.test.phase = .none → ¬driven → refusedWith p c .refusedState s)
      ∧ (inRange → s.clock.state ∈ [.empty, .paused] → s.test.phase = .none → driven →
        ∃ t, exec c s = .next t ∧ t.answer p = some ⟨.done, []⟩
          ∧ sameButAnswer p { s with test := ⟨.waiting, output.toNat, pw10.toNat, false⟩ } t))
  ∧ (∀ s : State, s.test.output < 88 →
      let k := s.test.output
      let v := liveVoicing s k
      let hot := s.tables.live.drive.hLim ≤ (channel s k).heat
      let pw := if hot then min s.test.pw10 ((v.e0 + (v.e1 - v.e0) / 4 + 5) / 10) else s.test.pw10
      let driven := ∃ chain j, place s k = .wired chain j ∧ (chainRec s chain).state = .online
      let granted := s.test.phase = .waiting ∧ s.drive.busy.length < s.tables.live.drive.k ∧ driven
      (¬granted → offerTest s = s)
        ∧ (granted → ∃ t, offerTest s = t ∧ t.test = { s.test with phase := .running }
            ∧ channel t k = { channel s k with state := .pulse, pw10 := pw, start := s.timing.build, test := true }
            ∧ (∀ j, j ≠ k → channel t j = channel s j)
            ∧ t.drive.busy = s.drive.busy ++ [⟨.test k, s.timing.build + (pw + 99) / 100⟩]
            ∧ t.drive.thermalCaps = (if hot then min (s.drive.thermalCaps + 1) 65535 else s.drive.thermalCaps)
            ∧ t = { s with
                test := t.test
                drive :=
                  { s.drive with
                    channels := t.drive.channels, busy := t.drive.busy, thermalCaps := t.drive.thermalCaps } }))
  ∧ ∀ s : State,
      let k := s.test.output
      (s.test.moved = false ∨ s.test.phase = .none → endMovedTest s = s)
        ∧ (s.test.moved = true → s.test.phase = .waiting →
            endMovedTest s = { s with test := { s.test with phase := .none } })
        ∧ (s.test.moved = true → s.test.phase = .running → k < 88 → ∃ t, endMovedTest s = t
            ∧ t.test = { s.test with phase := .none }
            ∧ channel t k = { channel s k with state := .off, test := false }
            ∧ (∀ j, j ≠ k → channel t j = channel s j)
            ∧ ((channel s k).state = .pulse → t.drive.busy.Sublist s.drive.busy
                ∧ (∀ b ∈ t.drive.busy, b.holder ≠ .test k ∧ b.holder ≠ .strike k)
                ∧ ∀ b, b.holder ≠ .test k → b.holder ≠ .strike k → t.drive.busy.count b = s.drive.busy.count b)
            ∧ ((channel s k).state ≠ .pulse → t.drive.busy = s.drive.busy)
            ∧ t = { s with
                test := t.test
                drive := { s.drive with channels := t.drive.channels, busy := t.drive.busy } })
        ∧ (s.test.moved = true → s.test.phase ≠ .none → ∃ t, exec .frameBuild s = .next t ∧ t.test.phase = .none)

/-- The parts of a frame build that are rows of their own (R95, R112, R115, R133, R181): each acts on the item that falls
due at the coming build, and elsewhere does nothing (the model's reading of those rows, assumption log 10).  Inside a
build, stage 2 lowers the countdown of every key by one, and stage 3 ends every pulse that has run and the test pulse with
it, moves both pedals through their profile and frees every slot whose time has come or whose kick has ended (R95, R109,
R112, R115, R133, R183); at its end the 50 bytes just sent to the checked chain are fed to the register, the frames left
fall by one, and at 0 the result and the done flag are set (R181).  That the phase of a test pulse whose channel a
restrike cut ends there too is inferred (log 25). -/
def Obligations.BuildPartsActOnTheItemDue : Prop :=
  (∀ (k : Fin 88) (s : State), ((keyRec s k).countdown ≠ 1 → exec (.gapCountdownExpiry k) s = .next s)
      ∧ ((keyRec s k).countdown = 1 →
        ∃ t, exec (.gapCountdownExpiry k) s = .next t ∧ keyRec t k = { keyRec s k with countdown := 0 }
          ∧ (∀ j, j ≠ k.val → keyRec t j = keyRec s j)
          ∧ sameButSettled { s with sched := { s.sched with keys := t.sched.keys } } t))
    ∧ (∀ (o : Fin 90) (s : State),
        let stays := fun (b : BusySlot) => b.holder.output ≠ o.val
          ∨ s.timing.build + 1 < b.freesAt ∧ ∀ pd, b.holder = .kick pd → (s.pedals.get pd).state = .kick
        ∃ t, exec (.slotFree o) s = .next t
        ∧ t = { s with drive := { s.drive with busy := t.drive.busy } }
        ∧ t.drive.busy.Sublist s.drive.busy
        ∧ (∀ b ∈ t.drive.busy, stays b)
        ∧ (∀ b, stays b → t.drive.busy.count b = s.drive.busy.count b)
        ∧ ((∀ b ∈ s.drive.busy, stays b) → t = s))
    ∧ (∀ (k : Fin 88) (s : State),
        ((channel s k).runOut (s.timing.build + 1) = false → exec (.pulseEnd k) s = .next s)
          ∧ ((channel s k).runOut (s.timing.build + 1) = true →
            ∃ t, exec (.pulseEnd k) s = .next t
              ∧ (channel t k).state = (if (channel s k).test then .off else .hold)
              ∧ (channel t k).heat = (channel s k).heat ∧ (∀ j, j ≠ k.val → channel t j = channel s j)
              ∧ t = { s with
                  drive := { s.drive with channels := t.drive.channels }, test := { s.test with phase := t.test.phase } }
              ∧ ((channel s k).test = false → t.test = s.test)
              ∧ ((channel s k).test = true → s.test.phase = .running → s.test.output = k.val → t.test.phase = .none)))
    ∧ (∀ (k : Nat) (s : State) (build : Nat), (channel s k).runOut build = true ↔
        (channel s k).state = .pulse ∧ (channel s k).start + ((channel s k).pw10 + 99) / 100 ≤ build)
    ∧ (∀ (pd : Pedal) (s : State),
        let r := s.pedals.get pd
        let due := r.state = .kick ∧ r.stepped = false ∧ r.countdown ≤ 1
        (¬due → exec (.kickEnd pd) s = .next s)
          ∧ (due → ∃ t, exec (.kickEnd pd) s = .next t
              ∧ (r.figures.holdDuty + r.figures.easeStep < r.figures.kickDuty →
                  (t.pedals.get pd).state = .ease ∧ (t.pedals.get pd).duty = r.figures.kickDuty - r.figures.easeStep
                    ∧ (t.pedals.get pd).countdown = r.figures.easeInterval)
              ∧ (r.figures.kickDuty ≤ r.figures.holdDuty + r.figures.easeStep →
                  (t.pedals.get pd).state = .hold ∧ (t.pedals.get pd).duty = r.figures.holdDuty)
              ∧ (∀ b ∈ t.drive.busy, b.holder ≠ .kick pd)
              ∧ (∀ b ∈ s.drive.busy, b.holder ≠ .kick pd → b ∈ t.drive.busy)
              ∧ (∀ q, q ≠ pd → t.pedals.get q = s.pedals.get q)
              ∧ t = { s with pedals := t.pedals, drive := { s.drive with busy := t.drive.busy } }))
    ∧ (∀ (pd : Pedal) (s : State),
        let r := s.pedals.get pd
        let due := r.state = .ease ∧ r.stepped = false ∧ r.countdown ≤ 1
        (¬due → exec (.easeStep pd) s = .next s)
          ∧ (due → ∃ t, exec (.easeStep pd) s = .next t
              ∧ (r.figures.holdDuty + r.figures.easeStep < r.duty →
                  (t.pedals.get pd).state = .ease ∧ (t.pedals.get pd).duty = r.duty - r.figures.easeStep
                    ∧ (t.pedals.get pd).countdown = r.figures.easeInterval)
              ∧ (r.duty ≤ r.figures.holdDuty + r.figures.easeStep →
                  (t.pedals.get pd).state = .hold ∧ (t.pedals.get pd).duty = r.figures.holdDuty)
              ∧ (∀ q, q ≠ pd → t.pedals.get q = s.pedals.get q)
              ∧ t = { s with pedals := t.pedals }))
    ∧ (∀ s : State, (s.check.left ≠ 1 → exec .frameCrcDone s = .next s)
      ∧ (s.check.left = 1 → s.check.chain < 4 →
        ∃ t, exec .frameCrcDone s = .next t ∧ t.check.left = 0 ∧ t.check.done = true
          ∧ t.check.result = crcBytes s.check.register (chainRec t s.check.chain).wire
          ∧ t.timing.build = s.timing.build + 1))
    ∧ (∀ s : State, ∃ t, exec .frameBuild s = .next t
      ∧ (let register := crcBytes s.check.register (chainRec t s.check.chain).wire
        (s.check.left = 0 → t.check = s.check)
          ∧ (1 < s.check.left → t.check = { s.check with register := register, left := s.check.left - 1 })
          ∧ (s.check.left = 1 →
              t.check = { s.check with register := register, left := 0, result := register, done := true })))
    ∧ (∀ s : State,
        let t := stageCountdowns s
        (∀ k, k < 88 → keyRec t k = { keyRec s k with countdown := (keyRec s k).countdown - 1 })
          ∧ sameButSettled { s with sched := { s.sched with keys := t.sched.keys } } t)
    ∧ ∀ s : State,
        let t := stageEnds s
        let c := channel s s.test.output
        let testEnds := s.test.phase = .running ∧ c.start + (c.pw10 + 99) / 100 ≤ s.timing.build
        let stays := fun (b : BusySlot) => s.timing.build < b.freesAt
          ∧ ∀ pd, b.holder = .kick pd → (s.pedals.get pd).state = .kick ∧ (t.pedals.get pd).state = .kick
        (∀ k, k < 88 → (channel s k).runOut s.timing.build = false → channel t k = channel s k)
          ∧ (∀ k, k < 88 → (channel s k).runOut s.timing.build = true →
              channel t k = { channel s k with state := if (channel s k).test then .off else .hold, test := false })
          ∧ (testEnds → t.test = { s.test with phase := .none })
          ∧ (¬testEnds → t.test = s.test)
          ∧ t.drive.busy.Sublist s.drive.busy
          ∧ (∀ b ∈ t.drive.busy, stays b)
          ∧ (∀ b, stays b → t.drive.busy.count b = s.drive.busy.count b)
          ∧ (∀ pd,
              let r := s.pedals.get pd
              (r.state ∉ [.kick, .ease] → t.pedals.get pd = { r with stepped := false })
                ∧ (r.stepped = true → t.pedals.get pd = { r with stepped := false })
                ∧ (r.state ∈ [.kick, .ease] → r.stepped = false → 1 < r.countdown →
                    t.pedals.get pd = { r with countdown := r.countdown - 1 })
                ∧ (r.state = .kick → r.stepped = false → r.countdown ≤ 1 → t.pedals.get pd = r.kickEnds)
                ∧ (r.state = .ease → r.stepped = false → r.countdown ≤ 1 → t.pedals.get pd = r.easeFalls))
          ∧ t = { s with
              pedals := t.pedals
              test := t.test
              drive := { s.drive with channels := t.drive.channels, busy := t.drive.busy } }

/-! ### Tables and stored settings -/

/-- APPLY TABLES (R158, R159): its tests in their order, and what is made live when all pass.  The validation passes where
every entry of every staged table does, and names the first that fails by table and entry (R156, R157).  The mark on a test
pulse whose output the new map moves is the model's own (log 31). -/
def Obligations.ApplyTablesMakesTheStagedTablesLive : Prop :=
  (∀ area : List Byte,
    (firstInvalid area = none ↔ ∀ table i, i < entryCount table → entryValid area table i)
      ∧ ∀ table i, firstInvalid area = some (table, i) ↔
          i < entryCount table ∧ ¬entryValid area table i
            ∧ ∀ table' i', (table' < table ∨ table' = table ∧ i' < i) → i' < entryCount table' →
                entryValid area table' i')
  ∧ ∀ (p : Port) (s : State), s.takesRequests →
    let c := Instr.applyTables p
    let area := stagedArea s
    let moved := fun o => (decodeTables area).map.toList.getD o .unused ≠ s.tables.live.map.toList.getD o .unused
    let storing := s.tables.link = .storing ∨ s.tables.link = .verifying
    let kRefused := (decodeDrive area).k ≠ s.tables.live.drive.k
      ∧ (s.clock.state ∉ [.empty, .ready, .paused, .ended] ∨ (decodeDrive area).k < s.drive.busy.length)
    (storing → refusedWith p c .refusedBusy s)
      ∧ (∀ table entry, ¬storing → firstInvalid area = some (table, entry) →
          ∃ t, exec c s = .next t ∧ sameButAnswer p s t
            ∧ t.answer p = some ⟨.refusedTable, natBytes 1 table ++ natBytes 1 entry⟩)
      ∧ (¬storing → firstInvalid area = none → kRefused →
          ∃ t, exec c s = .next t ∧ sameButAnswer p s t ∧ t.answer p = some ⟨.refusedState, [4#8, 0#8]⟩)
      ∧ (∀ o, ¬storing → firstInvalid area = none → ¬kRefused → s.clock.state ≠ .empty → o < 90 → moved o →
          (∀ j, j < o → ¬moved j) →
          ∃ t, exec c s = .next t ∧ sameButAnswer p s t
            ∧ t.answer p = some ⟨.refusedState, natBytes 1 6 ++ natBytes 1 o⟩)
      ∧ (¬storing → firstInvalid area = none → ¬kRefused → s.clock.state = .empty ∨ (∀ o, o < 90 → ¬moved o) →
          ∃ t, exec c s = .next t
            ∧ t.answer p = some ⟨.done, natBytes 2 t.tables.generation⟩
            ∧ t.tables.live = decodeTables area
            ∧ t.tables.generation = (s.tables.generation + 1) % 65536
            ∧ (∀ i, i < 32 →
                let d := decodeCue area i
                cueAt t i = ⟨d.line, d.target, d.action, d.once, d.armed, d.armed, (cueAt s i).hits⟩)
            ∧ t.cues.last = s.cues.last
            ∧ (t.test.moved = true ↔ s.test.moved = true ∨ s.test.phase ≠ .none ∧ moved s.test.output)
            ∧ sameButAnswer p
                { s with
                  cues := t.cues
                  test := { s.test with moved := t.test.moved }
                  tables := { s.tables with live := t.tables.live, generation := t.tables.generation } } t)

/-- STORE SETTINGS, STORE_WRITE_DONE and STORE_VERIFY_DONE (R164).  That the two events change nothing in any other link
state is the model's reading (log 7); the bytes the line delivers otherwise than the memory holds are the command's
operands (log 24). -/
def Obligations.StoresWriteAndVerifyTheImage : Prop :=
  (∀ (p : Port) (s : State), s.takesRequests →
    (s.tables.link = .storing ∨ s.tables.link = .verifying → refusedWith p (.storeSettings p) .refusedBusy s)
      ∧ (s.tables.link = .idle →
        ∃ t, exec (.storeSettings p) s = .next t ∧ t.answer p = some ⟨.done, []⟩
          ∧ t.tables.link = .storing ∧ t.tables.lastStore = .none ∧ t.tables.storeCopy.length = 2440
          ∧ t.tables.storeCopy
            = natBytes 2 0x7288 ++ natBytes 2 2432 ++ natBytes 2 s.tables.generation
                ++ natBytes 2 ((stagedArea s).foldl (fun n b => n + b.toNat) 0 % 65536) ++ stagedArea s
          ∧ sameButAnswer p
              { s with
                tables :=
                  { s.tables with link := .storing, lastStore := .none, storeCopy := t.tables.storeCopy } } t))
    ∧ (∀ s : State, s.tables.link = .storing →
      (∃ t, exec (.storeWriteDone none) s = .next t
          ∧ t = { s with settings := t.settings, tables := { s.tables with link := .verifying } }
          ∧ ∀ i, i < s.tables.storeCopy.length →
              Mem.read settingsFill t.settings i = s.tables.storeCopy.getD i 0#8)
        ∧ ∀ k, ∃ t, exec (.storeWriteDone (some k)) s = .next t
          ∧ t.tables = { s.tables with link := .idle, storeCopy := [], lastStore := .verifyFailed }
          ∧ attended .store t
          ∧ (∀ i, i < k → i < s.tables.storeCopy.length →
              Mem.read settingsFill t.settings i = s.tables.storeCopy.getD i 0#8)
          ∧ (∀ i, k ≤ i → Mem.read settingsFill t.settings i = Mem.read settingsFill s.settings i)
          ∧ { t with settings := s.settings, tables := s.tables, ports := s.ports } = s)
    ∧ (∀ (complete : Bool) (noise : List Host.Cell) (s : State), s.tables.link = .verifying →
      ∃ t, exec (.storeVerifyDone complete noise) s = .next t
        ∧ t.tables.link = .idle ∧ t.tables.storeCopy = [] ∧ attended .store t
        ∧ (complete = true → lineBytes s noise = s.tables.storeCopy → t.tables.lastStore = .ok)
        ∧ (complete = false ∨ lineBytes s noise ≠ s.tables.storeCopy → t.tables.lastStore = .verifyFailed)
        ∧ { t with tables := s.tables, ports := s.ports } = s)
    ∧ ∀ (failedAt : Option Nat) (complete : Bool) (noise : List Host.Cell) (s : State),
        (s.tables.link ≠ .storing → exec (.storeWriteDone failedAt) s = .next s)
          ∧ (s.tables.link ≠ .verifying → exec (.storeVerifyDone complete noise) s = .next s)

/-- RELOAD SETTINGS (R163) and SETTINGS_LOAD_COMPLETE (R161): the image accepted, or the built-in defaults with SETTINGS
attention, in the table area and in the live tables.  That the event changes nothing outside a load is the model's reading
(log 7); the bytes the line delivers otherwise than the memory holds are the command's operands (log 24). -/
def Obligations.SettingsLoadsEndWithTheImageOrTheDefaults : Prop :=
  (∀ (p : Port) (s : State), s.takesRequests →
    (s.tables.link = .storing ∨ s.tables.link = .verifying → refusedWith p (.reloadSettings p) .refusedBusy s)
      ∧ (s.tables.link = .idle → s.clock.state ≠ .empty ∨ s.drive.busy ≠ [] →
          refusedWith p (.reloadSettings p) .refusedState s)
      ∧ (s.tables.link = .idle → s.clock.state = .empty → s.drive.busy = [] →
          ∃ t, exec (.reloadSettings p) s = .next t ∧ t.answer p = some ⟨.done, []⟩
            ∧ sameButAnswer p { s with tables := { s.tables with link := .loading } } t))
    ∧ (∀ (complete : Bool) (noise : List Host.Cell) (s : State), s.tables.link = .loading →
      let image := lineBytes s noise
      let area := image.drop 8
      let accepted := complete = true ∧ field image 0 2 = 0x7288 ∧ field image 2 2 = 2432
        ∧ field image 6 2 = area.foldl (fun n b => n + b.toNat) 0 % 65536 ∧ firstInvalid area = none
      ∃ t, exec (.settingsLoadComplete complete noise) s = .next t
        ∧ t.tables.link = .idle ∧ t.tables.appliedProfile = 0
        ∧ (accepted → t.tables.live = decodeTables area ∧ t.tables.generation = (field image 4 2 + 1) % 65536)
        ∧ (¬accepted → t.tables.live = Tables.builtIn ∧ t.tables.generation = 1 ∧ attended .settings t)
        ∧ (accepted → ∀ p, (t.ports.get p).pending &&& Attention.settings.set
            = (s.ports.get p).pending &&& Attention.settings.set)
        ∧ (accepted → ∀ i, i < 2432 → (∀ j, j < 32 → outsideBlock (cueCounterAddr j) 2 (0x0C00 + i)) →
            readByte t (0x0C00 + i) = area.getD i 0#8)
        ∧ (¬accepted → stagedArea t = encodeTables Tables.builtIn)
        ∧ (accepted → ∀ i, i < 32 →
            let d := decodeCue area i
            cueAt t i = ⟨d.line, d.target, d.action, d.once, d.armed, d.armed, 0⟩)
        ∧ (¬accepted → ∀ i, i < 32 → (cueAt t i).action = .none ∧ (cueAt t i).armed = false)
        ∧ (∀ i, i < 32 → readBytes t (cueCounterAddr i) 2 = [0#8, 0#8])
        ∧ memoryKept (outsideBlock 0x0C00 2432) s t
        ∧ (t.clock.vNom16 = (liveProfile t 0).vNom16 ∧ t.clock.readAhead = (liveProfile t 0).readAhead
          ∧ t.clock.vCmd16 = commandedRate t.clock.vNom16 s.clock.tau ∧ t.seek.prime = (liveProfile t 0).prime)
        ∧ (t.reading.onRun = (liveProfile t 0).onRun ∧ t.reading.offRun = (liveProfile t 0).offRun
          ∧ t.reading.stepStable = (liveProfile t 0).stepStable ∧ t.reading.leaderMask = t.tables.live.leaderMask)
        ∧ (t.expr.steps = (liveProfile t 0).steps ∧ t.expr.splitKey = (liveProfile t 0).splitKey)
        ∧ ((∀ q ∈ t.cues.live.toList, q.hits = 0 ∧ q.armed = q.appliedArmed) ∧ t.cues.last = none)
        ∧ t.test = { s.test with moved := t.test.moved }
        ∧ t.clock.state = s.clock.state ∧ t.intake = s.intake ∧ t.drive = s.drive ∧ t.settings = s.settings)
    ∧ ∀ (complete : Bool) (noise : List Host.Cell) (s : State), s.tables.link ≠ .loading →
        exec (.settingsLoadComplete complete noise) s = .next s

/-! ### Invariants -/

/-- Both memories keep their canonical form inside their address spaces, and an attached ring stays as it was taken. -/
def Obligations.StepsKeepTheMemoriesAndTheRing : Prop :=
  ∀ s t : State, s.memoryOk → s.ringOk → step s = .next t → t.memoryOk ∧ t.ringOk

/-- Every step keeps P at or below N_in·256, and in PLAYING short of it and of E·256 (R8, R9, R13, R18), the rates and c in
their ranges (R3, R11, R12), the directive as the Roll Clock's state gives it (R20, R21), and every heat within 4000
(R117). -/
def Obligations.StepsKeepTheFiguresInRange : Prop :=
  ∀ s t : State, step s = .next t →
    (s.positionOk → t.positionOk) ∧ (s.ratesOk → t.ratesOk) ∧ (s.directiveOk → t.directiveOk) ∧ (s.heatOk → t.heatOk)

/-- Every step keeps the owned count of an attached ring equal to the number of its slots whose OWN flag is set (R26). -/
def Obligations.StepsKeepTheOwnedCount : Prop :=
  ∀ s t : State, s.memoryOk → s.ringOk → s.ownedOk → step s = .next t → t.ownedOk

/-- The state after reset meets every invariant that the steps keep. -/
def Obligations.ResetMeetsTheInvariants : Prop :=
  State.reset.memoryOk ∧ State.reset.ringOk ∧ State.reset.positionOk ∧ State.reset.ratesOk ∧ State.reset.directiveOk
    ∧ State.reset.heatOk ∧ State.reset.ownedOk
end

