-- ==== Sys2Proof/Laws/State.lean ====
section
/-! SUPPORT. What each named update of the state does to each field. -/

namespace Sys2Proof.Laws

open Sys2Proof Sys2Proof.Machine

/-! ### `raise` -/

@[simp] theorem raise_clock (a : Attention) (s : State) : (raise a s).clock = s.clock := rfl

@[simp] theorem raise_seek (a : Attention) (s : State) : (raise a s).seek = s.seek := rfl

@[simp] theorem raise_timing (a : Attention) (s : State) : (raise a s).timing = s.timing := rfl

@[simp] theorem raise_intake (a : Attention) (s : State) : (raise a s).intake = s.intake := rfl

@[simp] theorem raise_reading (a : Attention) (s : State) : (raise a s).reading = s.reading := rfl

@[simp] theorem raise_expr (a : Attention) (s : State) : (raise a s).expr = s.expr := rfl

@[simp] theorem raise_sched (a : Attention) (s : State) : (raise a s).sched = s.sched := rfl

@[simp] theorem raise_drive (a : Attention) (s : State) : (raise a s).drive = s.drive := rfl

@[simp] theorem raise_check (a : Attention) (s : State) : (raise a s).check = s.check := rfl

@[simp] theorem raise_test (a : Attention) (s : State) : (raise a s).test = s.test := rfl

@[simp] theorem raise_pedals (a : Attention) (s : State) : (raise a s).pedals = s.pedals := rfl

@[simp] theorem raise_cues (a : Attention) (s : State) : (raise a s).cues = s.cues := rfl

@[simp] theorem raise_tables (a : Attention) (s : State) : (raise a s).tables = s.tables := rfl

@[simp] theorem raise_ports (a : Attention) (s : State) : (raise a s).ports = s.ports.map fun r => { r with pending := r.pending ||| a.set } := rfl

@[simp] theorem raise_mem (a : Attention) (s : State) : (raise a s).mem = s.mem := rfl

@[simp] theorem raise_settings (a : Attention) (s : State) : (raise a s).settings = s.settings := rfl

@[simp] theorem raise_freeDraws (a : Attention) (s : State) : (raise a s).freeDraws = s.freeDraws := rfl

@[simp] theorem raise_pending (a : Attention) (s : State) : (raise a s).pending = s.pending := rfl

/-! ### `respond` -/

@[simp] theorem respond_clock (p : Port) (r : Response) (s : State) : (respond p r s).clock = s.clock := rfl

@[simp] theorem respond_seek (p : Port) (r : Response) (s : State) : (respond p r s).seek = s.seek := rfl

@[simp] theorem respond_timing (p : Port) (r : Response) (s : State) : (respond p r s).timing = s.timing := rfl

@[simp] theorem respond_intake (p : Port) (r : Response) (s : State) : (respond p r s).intake = s.intake := rfl

@[simp] theorem respond_reading (p : Port) (r : Response) (s : State) : (respond p r s).reading = s.reading := rfl

@[simp] theorem respond_expr (p : Port) (r : Response) (s : State) : (respond p r s).expr = s.expr := rfl

@[simp] theorem respond_sched (p : Port) (r : Response) (s : State) : (respond p r s).sched = s.sched := rfl

@[simp] theorem respond_drive (p : Port) (r : Response) (s : State) : (respond p r s).drive = s.drive := rfl

@[simp] theorem respond_check (p : Port) (r : Response) (s : State) : (respond p r s).check = s.check := rfl

@[simp] theorem respond_test (p : Port) (r : Response) (s : State) : (respond p r s).test = s.test := rfl

@[simp] theorem respond_pedals (p : Port) (r : Response) (s : State) : (respond p r s).pedals = s.pedals := rfl

@[simp] theorem respond_cues (p : Port) (r : Response) (s : State) : (respond p r s).cues = s.cues := rfl

@[simp] theorem respond_tables (p : Port) (r : Response) (s : State) : (respond p r s).tables = s.tables := rfl

@[simp] theorem respond_ports (p : Port) (r : Response) (s : State) : (respond p r s).ports = s.ports.modify p fun x => { x with response := some r } := rfl

@[simp] theorem respond_mem (p : Port) (r : Response) (s : State) : (respond p r s).mem = s.mem := rfl

@[simp] theorem respond_settings (p : Port) (r : Response) (s : State) : (respond p r s).settings = s.settings := rfl

@[simp] theorem respond_freeDraws (p : Port) (r : Response) (s : State) : (respond p r s).freeDraws = s.freeDraws := rfl

@[simp] theorem respond_pending (p : Port) (r : Response) (s : State) : (respond p r s).pending = s.pending := rfl

/-! ### `gather` -/

@[simp] theorem gather_clock (p : Port) (bs : List Byte) (s : State) : (gather p bs s).clock = s.clock := rfl

@[simp] theorem gather_seek (p : Port) (bs : List Byte) (s : State) : (gather p bs s).seek = s.seek := rfl

@[simp] theorem gather_timing (p : Port) (bs : List Byte) (s : State) : (gather p bs s).timing = s.timing := rfl

@[simp] theorem gather_intake (p : Port) (bs : List Byte) (s : State) : (gather p bs s).intake = s.intake := rfl

@[simp] theorem gather_reading (p : Port) (bs : List Byte) (s : State) : (gather p bs s).reading = s.reading := rfl

@[simp] theorem gather_expr (p : Port) (bs : List Byte) (s : State) : (gather p bs s).expr = s.expr := rfl

@[simp] theorem gather_sched (p : Port) (bs : List Byte) (s : State) : (gather p bs s).sched = s.sched := rfl

@[simp] theorem gather_drive (p : Port) (bs : List Byte) (s : State) : (gather p bs s).drive = s.drive := rfl

@[simp] theorem gather_check (p : Port) (bs : List Byte) (s : State) : (gather p bs s).check = s.check := rfl

@[simp] theorem gather_test (p : Port) (bs : List Byte) (s : State) : (gather p bs s).test = s.test := rfl

@[simp] theorem gather_pedals (p : Port) (bs : List Byte) (s : State) : (gather p bs s).pedals = s.pedals := rfl

@[simp] theorem gather_cues (p : Port) (bs : List Byte) (s : State) : (gather p bs s).cues = s.cues := rfl

@[simp] theorem gather_tables (p : Port) (bs : List Byte) (s : State) : (gather p bs s).tables = s.tables := rfl

@[simp] theorem gather_ports (p : Port) (bs : List Byte) (s : State) : (gather p bs s).ports = s.ports.modify p fun x => { x with assembler := bs.take 73, sdo := List.replicate bs.length 0xFF#8 } := rfl

@[simp] theorem gather_mem (p : Port) (bs : List Byte) (s : State) : (gather p bs s).mem = s.mem := rfl

@[simp] theorem gather_settings (p : Port) (bs : List Byte) (s : State) : (gather p bs s).settings = s.settings := rfl

@[simp] theorem gather_freeDraws (p : Port) (bs : List Byte) (s : State) : (gather p bs s).freeDraws = s.freeDraws := rfl

@[simp] theorem gather_pending (p : Port) (bs : List Byte) (s : State) : (gather p bs s).pending = s.pending := rfl

/-! ### `setWindow` -/

@[simp] theorem setWindow_clock (p : Port) (a : Nat) (s : State) : (setWindow p a s).clock = s.clock := rfl

@[simp] theorem setWindow_seek (p : Port) (a : Nat) (s : State) : (setWindow p a s).seek = s.seek := rfl

@[simp] theorem setWindow_timing (p : Port) (a : Nat) (s : State) : (setWindow p a s).timing = s.timing := rfl

@[simp] theorem setWindow_intake (p : Port) (a : Nat) (s : State) : (setWindow p a s).intake = s.intake := rfl

@[simp] theorem setWindow_reading (p : Port) (a : Nat) (s : State) : (setWindow p a s).reading = s.reading := rfl

@[simp] theorem setWindow_expr (p : Port) (a : Nat) (s : State) : (setWindow p a s).expr = s.expr := rfl

@[simp] theorem setWindow_sched (p : Port) (a : Nat) (s : State) : (setWindow p a s).sched = s.sched := rfl

@[simp] theorem setWindow_drive (p : Port) (a : Nat) (s : State) : (setWindow p a s).drive = s.drive := rfl

@[simp] theorem setWindow_check (p : Port) (a : Nat) (s : State) : (setWindow p a s).check = s.check := rfl

@[simp] theorem setWindow_test (p : Port) (a : Nat) (s : State) : (setWindow p a s).test = s.test := rfl

@[simp] theorem setWindow_pedals (p : Port) (a : Nat) (s : State) : (setWindow p a s).pedals = s.pedals := rfl

@[simp] theorem setWindow_cues (p : Port) (a : Nat) (s : State) : (setWindow p a s).cues = s.cues := rfl

@[simp] theorem setWindow_tables (p : Port) (a : Nat) (s : State) : (setWindow p a s).tables = s.tables := rfl

@[simp] theorem setWindow_ports (p : Port) (a : Nat) (s : State) : (setWindow p a s).ports = s.ports.modify p fun x => { x with window := a } := rfl

@[simp] theorem setWindow_mem (p : Port) (a : Nat) (s : State) : (setWindow p a s).mem = s.mem := rfl

@[simp] theorem setWindow_settings (p : Port) (a : Nat) (s : State) : (setWindow p a s).settings = s.settings := rfl

@[simp] theorem setWindow_freeDraws (p : Port) (a : Nat) (s : State) : (setWindow p a s).freeDraws = s.freeDraws := rfl

@[simp] theorem setWindow_pending (p : Port) (a : Nat) (s : State) : (setWindow p a s).pending = s.pending := rfl

/-! ### `writeBytes` -/

@[simp] theorem writeBytes_clock (a : Nat) (bs : List Byte) (s : State) : (writeBytes a bs s).clock = s.clock := rfl

@[simp] theorem writeBytes_seek (a : Nat) (bs : List Byte) (s : State) : (writeBytes a bs s).seek = s.seek := rfl

@[simp] theorem writeBytes_timing (a : Nat) (bs : List Byte) (s : State) : (writeBytes a bs s).timing = s.timing := rfl

@[simp] theorem writeBytes_intake (a : Nat) (bs : List Byte) (s : State) : (writeBytes a bs s).intake = s.intake := rfl

@[simp] theorem writeBytes_reading (a : Nat) (bs : List Byte) (s : State) : (writeBytes a bs s).reading = s.reading := rfl

@[simp] theorem writeBytes_expr (a : Nat) (bs : List Byte) (s : State) : (writeBytes a bs s).expr = s.expr := rfl

@[simp] theorem writeBytes_sched (a : Nat) (bs : List Byte) (s : State) : (writeBytes a bs s).sched = s.sched := rfl

@[simp] theorem writeBytes_drive (a : Nat) (bs : List Byte) (s : State) : (writeBytes a bs s).drive = s.drive := rfl

@[simp] theorem writeBytes_check (a : Nat) (bs : List Byte) (s : State) : (writeBytes a bs s).check = s.check := rfl

@[simp] theorem writeBytes_test (a : Nat) (bs : List Byte) (s : State) : (writeBytes a bs s).test = s.test := rfl

@[simp] theorem writeBytes_pedals (a : Nat) (bs : List Byte) (s : State) : (writeBytes a bs s).pedals = s.pedals := rfl

@[simp] theorem writeBytes_cues (a : Nat) (bs : List Byte) (s : State) : (writeBytes a bs s).cues = s.cues := rfl

@[simp] theorem writeBytes_tables (a : Nat) (bs : List Byte) (s : State) : (writeBytes a bs s).tables = s.tables := rfl

@[simp] theorem writeBytes_ports (a : Nat) (bs : List Byte) (s : State) : (writeBytes a bs s).ports = s.ports := rfl

@[simp] theorem writeBytes_mem (a : Nat) (bs : List Byte) (s : State) : (writeBytes a bs s).mem = Mem.writeBlock recordFill s.mem a bs := rfl

@[simp] theorem writeBytes_settings (a : Nat) (bs : List Byte) (s : State) : (writeBytes a bs s).settings = s.settings := rfl

@[simp] theorem writeBytes_freeDraws (a : Nat) (bs : List Byte) (s : State) : (writeBytes a bs s).freeDraws = s.freeDraws := rfl

@[simp] theorem writeBytes_pending (a : Nat) (bs : List Byte) (s : State) : (writeBytes a bs s).pending = s.pending := rfl

/-! ### `setOwned` -/

@[simp] theorem setOwned_clock (n : Nat) (s : State) : (setOwned n s).clock = { s.clock with backedUp := hysteresis s.intake.q n s.clock.backedUp } := rfl

@[simp] theorem setOwned_seek (n : Nat) (s : State) : (setOwned n s).seek = s.seek := rfl

@[simp] theorem setOwned_timing (n : Nat) (s : State) : (setOwned n s).timing = s.timing := rfl

@[simp] theorem setOwned_intake (n : Nat) (s : State) : (setOwned n s).intake = { s.intake with owned := n } := rfl

@[simp] theorem setOwned_reading (n : Nat) (s : State) : (setOwned n s).reading = s.reading := rfl

@[simp] theorem setOwned_expr (n : Nat) (s : State) : (setOwned n s).expr = s.expr := rfl

@[simp] theorem setOwned_sched (n : Nat) (s : State) : (setOwned n s).sched = s.sched := rfl

@[simp] theorem setOwned_drive (n : Nat) (s : State) : (setOwned n s).drive = s.drive := rfl

@[simp] theorem setOwned_check (n : Nat) (s : State) : (setOwned n s).check = s.check := rfl

@[simp] theorem setOwned_test (n : Nat) (s : State) : (setOwned n s).test = s.test := rfl

@[simp] theorem setOwned_pedals (n : Nat) (s : State) : (setOwned n s).pedals = s.pedals := rfl

@[simp] theorem setOwned_cues (n : Nat) (s : State) : (setOwned n s).cues = s.cues := rfl

@[simp] theorem setOwned_tables (n : Nat) (s : State) : (setOwned n s).tables = s.tables := rfl

@[simp] theorem setOwned_ports (n : Nat) (s : State) : (setOwned n s).ports = s.ports := rfl

@[simp] theorem setOwned_mem (n : Nat) (s : State) : (setOwned n s).mem = s.mem := rfl

@[simp] theorem setOwned_settings (n : Nat) (s : State) : (setOwned n s).settings = s.settings := rfl

@[simp] theorem setOwned_freeDraws (n : Nat) (s : State) : (setOwned n s).freeDraws = s.freeDraws := rfl

@[simp] theorem setOwned_pending (n : Nat) (s : State) : (setOwned n s).pending = s.pending := rfl

/-! ### `setP` -/

@[simp] theorem setP_clock (x : Nat) (s : State) : (setP x s).clock = { s.clock with p := x } := rfl

@[simp] theorem setP_seek (x : Nat) (s : State) : (setP x s).seek = s.seek := rfl

@[simp] theorem setP_timing (x : Nat) (s : State) : (setP x s).timing = { s.timing with part := 0 } := rfl

@[simp] theorem setP_intake (x : Nat) (s : State) : (setP x s).intake = s.intake := rfl

@[simp] theorem setP_reading (x : Nat) (s : State) : (setP x s).reading = s.reading := rfl

@[simp] theorem setP_expr (x : Nat) (s : State) : (setP x s).expr = s.expr := rfl

@[simp] theorem setP_sched (x : Nat) (s : State) : (setP x s).sched = s.sched := rfl

@[simp] theorem setP_drive (x : Nat) (s : State) : (setP x s).drive = s.drive := rfl

@[simp] theorem setP_check (x : Nat) (s : State) : (setP x s).check = s.check := rfl

@[simp] theorem setP_test (x : Nat) (s : State) : (setP x s).test = s.test := rfl

@[simp] theorem setP_pedals (x : Nat) (s : State) : (setP x s).pedals = s.pedals := rfl

@[simp] theorem setP_cues (x : Nat) (s : State) : (setP x s).cues = s.cues := rfl

@[simp] theorem setP_tables (x : Nat) (s : State) : (setP x s).tables = s.tables := rfl

@[simp] theorem setP_ports (x : Nat) (s : State) : (setP x s).ports = s.ports := rfl

@[simp] theorem setP_mem (x : Nat) (s : State) : (setP x s).mem = s.mem := rfl

@[simp] theorem setP_settings (x : Nat) (s : State) : (setP x s).settings = s.settings := rfl

@[simp] theorem setP_freeDraws (x : Nat) (s : State) : (setP x s).freeDraws = s.freeDraws := rfl

@[simp] theorem setP_pending (x : Nat) (s : State) : (setP x s).pending = s.pending := rfl

/-! ### `advanceTo` -/

@[simp] theorem advanceTo_clock (x : Nat) (s : State) : (advanceTo x s).clock = { s.clock with p := x } := rfl

@[simp] theorem advanceTo_seek (x : Nat) (s : State) : (advanceTo x s).seek = s.seek := rfl

@[simp] theorem advanceTo_timing (x : Nat) (s : State) :
    (advanceTo x s).timing = { s.timing with part := 0, rate := playRate { s.clock with p := x } } := rfl

@[simp] theorem advanceTo_intake (x : Nat) (s : State) : (advanceTo x s).intake = s.intake := rfl

@[simp] theorem advanceTo_reading (x : Nat) (s : State) : (advanceTo x s).reading = s.reading := rfl

@[simp] theorem advanceTo_expr (x : Nat) (s : State) : (advanceTo x s).expr = s.expr := rfl

@[simp] theorem advanceTo_sched (x : Nat) (s : State) : (advanceTo x s).sched = s.sched := rfl

@[simp] theorem advanceTo_drive (x : Nat) (s : State) : (advanceTo x s).drive = s.drive := rfl

@[simp] theorem advanceTo_check (x : Nat) (s : State) : (advanceTo x s).check = s.check := rfl

@[simp] theorem advanceTo_test (x : Nat) (s : State) : (advanceTo x s).test = s.test := rfl

@[simp] theorem advanceTo_pedals (x : Nat) (s : State) : (advanceTo x s).pedals = s.pedals := rfl

@[simp] theorem advanceTo_cues (x : Nat) (s : State) : (advanceTo x s).cues = s.cues := rfl

@[simp] theorem advanceTo_tables (x : Nat) (s : State) : (advanceTo x s).tables = s.tables := rfl

@[simp] theorem advanceTo_ports (x : Nat) (s : State) : (advanceTo x s).ports = s.ports := rfl

@[simp] theorem advanceTo_mem (x : Nat) (s : State) : (advanceTo x s).mem = s.mem := rfl

@[simp] theorem advanceTo_settings (x : Nat) (s : State) : (advanceTo x s).settings = s.settings := rfl

@[simp] theorem advanceTo_freeDraws (x : Nat) (s : State) : (advanceTo x s).freeDraws = s.freeDraws := rfl

@[simp] theorem advanceTo_pending (x : Nat) (s : State) : (advanceTo x s).pending = s.pending := rfl

/-! ### `setRoll` -/

@[simp] theorem setRoll_clock (st : RollState) (s : State) : (setRoll st s).clock = { s.clock with state := st } := rfl

@[simp] theorem setRoll_seek (st : RollState) (s : State) : (setRoll st s).seek = s.seek := rfl

@[simp] theorem setRoll_timing (st : RollState) (s : State) : (setRoll st s).timing = s.timing := rfl

@[simp] theorem setRoll_intake (st : RollState) (s : State) : (setRoll st s).intake = s.intake := rfl

@[simp] theorem setRoll_reading (st : RollState) (s : State) : (setRoll st s).reading = s.reading := rfl

@[simp] theorem setRoll_expr (st : RollState) (s : State) : (setRoll st s).expr = s.expr := rfl

@[simp] theorem setRoll_sched (st : RollState) (s : State) : (setRoll st s).sched = s.sched := rfl

@[simp] theorem setRoll_drive (st : RollState) (s : State) : (setRoll st s).drive = s.drive := rfl

@[simp] theorem setRoll_check (st : RollState) (s : State) : (setRoll st s).check = s.check := rfl

@[simp] theorem setRoll_test (st : RollState) (s : State) : (setRoll st s).test = s.test := rfl

@[simp] theorem setRoll_pedals (st : RollState) (s : State) : (setRoll st s).pedals = s.pedals := rfl

@[simp] theorem setRoll_cues (st : RollState) (s : State) : (setRoll st s).cues = s.cues := rfl

@[simp] theorem setRoll_tables (st : RollState) (s : State) : (setRoll st s).tables = s.tables := rfl

@[simp] theorem setRoll_ports (st : RollState) (s : State) : (setRoll st s).ports = s.ports := rfl

@[simp] theorem setRoll_mem (st : RollState) (s : State) : (setRoll st s).mem = s.mem := rfl

@[simp] theorem setRoll_settings (st : RollState) (s : State) : (setRoll st s).settings = s.settings := rfl

@[simp] theorem setRoll_freeDraws (st : RollState) (s : State) : (setRoll st s).freeDraws = s.freeDraws := rfl

@[simp] theorem setRoll_pending (st : RollState) (s : State) : (setRoll st s).pending = s.pending := rfl

/-! ### `setC` -/

@[simp] theorem setC_clock (c : Int) (s : State) : (setC c s).clock = { s.clock with c := c } := rfl

@[simp] theorem setC_seek (c : Int) (s : State) : (setC c s).seek = s.seek := rfl

@[simp] theorem setC_timing (c : Int) (s : State) : (setC c s).timing = s.timing := rfl

@[simp] theorem setC_intake (c : Int) (s : State) : (setC c s).intake = s.intake := rfl

@[simp] theorem setC_reading (c : Int) (s : State) : (setC c s).reading = s.reading := rfl

@[simp] theorem setC_expr (c : Int) (s : State) : (setC c s).expr = s.expr := rfl

@[simp] theorem setC_sched (c : Int) (s : State) : (setC c s).sched = s.sched := rfl

@[simp] theorem setC_drive (c : Int) (s : State) : (setC c s).drive = s.drive := rfl

@[simp] theorem setC_check (c : Int) (s : State) : (setC c s).check = s.check := rfl

@[simp] theorem setC_test (c : Int) (s : State) : (setC c s).test = s.test := rfl

@[simp] theorem setC_pedals (c : Int) (s : State) : (setC c s).pedals = s.pedals := rfl

@[simp] theorem setC_cues (c : Int) (s : State) : (setC c s).cues = s.cues := rfl

@[simp] theorem setC_tables (c : Int) (s : State) : (setC c s).tables = s.tables := rfl

@[simp] theorem setC_ports (c : Int) (s : State) : (setC c s).ports = s.ports := rfl

@[simp] theorem setC_mem (c : Int) (s : State) : (setC c s).mem = s.mem := rfl

@[simp] theorem setC_settings (c : Int) (s : State) : (setC c s).settings = s.settings := rfl

@[simp] theorem setC_freeDraws (c : Int) (s : State) : (setC c s).freeDraws = s.freeDraws := rfl

@[simp] theorem setC_pending (c : Int) (s : State) : (setC c s).pending = s.pending := rfl

/-! ### `beginPlaying` -/

@[simp] theorem beginPlaying_clock (s : State) : (beginPlaying s).clock = { s.clock with state := .playing } := rfl

@[simp] theorem beginPlaying_seek (s : State) : (beginPlaying s).seek = s.seek := rfl

@[simp] theorem beginPlaying_timing (s : State) : (beginPlaying s).timing = { s.timing with rate := playRate s.clock } := rfl

@[simp] theorem beginPlaying_intake (s : State) : (beginPlaying s).intake = s.intake := rfl

@[simp] theorem beginPlaying_reading (s : State) : (beginPlaying s).reading = s.reading := rfl

@[simp] theorem beginPlaying_expr (s : State) : (beginPlaying s).expr = s.expr := rfl

@[simp] theorem beginPlaying_sched (s : State) : (beginPlaying s).sched = s.sched := rfl

@[simp] theorem beginPlaying_drive (s : State) : (beginPlaying s).drive = s.drive := rfl

@[simp] theorem beginPlaying_check (s : State) : (beginPlaying s).check = s.check := rfl

@[simp] theorem beginPlaying_test (s : State) : (beginPlaying s).test = s.test := rfl

@[simp] theorem beginPlaying_pedals (s : State) : (beginPlaying s).pedals = s.pedals := rfl

@[simp] theorem beginPlaying_cues (s : State) : (beginPlaying s).cues = s.cues := rfl

@[simp] theorem beginPlaying_tables (s : State) : (beginPlaying s).tables = s.tables := rfl

@[simp] theorem beginPlaying_ports (s : State) : (beginPlaying s).ports = s.ports := rfl

@[simp] theorem beginPlaying_mem (s : State) : (beginPlaying s).mem = s.mem := rfl

@[simp] theorem beginPlaying_settings (s : State) : (beginPlaying s).settings = s.settings := rfl

@[simp] theorem beginPlaying_freeDraws (s : State) : (beginPlaying s).freeDraws = s.freeDraws := rfl

@[simp] theorem beginPlaying_pending (s : State) : (beginPlaying s).pending = s.pending := rfl

/-! ### `setTrack` -/

@[simp] theorem setTrack_clock (n : Nat) (f : TrackRec → TrackRec) (s : State) : (setTrack n f s).clock = s.clock := rfl

@[simp] theorem setTrack_seek (n : Nat) (f : TrackRec → TrackRec) (s : State) : (setTrack n f s).seek = s.seek := rfl

@[simp] theorem setTrack_timing (n : Nat) (f : TrackRec → TrackRec) (s : State) : (setTrack n f s).timing = s.timing := rfl

@[simp] theorem setTrack_intake (n : Nat) (f : TrackRec → TrackRec) (s : State) : (setTrack n f s).intake = s.intake := rfl

@[simp] theorem setTrack_reading (n : Nat) (f : TrackRec → TrackRec) (s : State) : (setTrack n f s).reading = s.reading := rfl

@[simp] theorem setTrack_expr (n : Nat) (f : TrackRec → TrackRec) (s : State) : (setTrack n f s).expr = s.expr := rfl

@[simp] theorem setTrack_sched (n : Nat) (f : TrackRec → TrackRec) (s : State) : (setTrack n f s).sched = { s.sched with tracks := vmodify s.sched.tracks n f } := rfl

@[simp] theorem setTrack_drive (n : Nat) (f : TrackRec → TrackRec) (s : State) : (setTrack n f s).drive = s.drive := rfl

@[simp] theorem setTrack_check (n : Nat) (f : TrackRec → TrackRec) (s : State) : (setTrack n f s).check = s.check := rfl

@[simp] theorem setTrack_test (n : Nat) (f : TrackRec → TrackRec) (s : State) : (setTrack n f s).test = s.test := rfl

@[simp] theorem setTrack_pedals (n : Nat) (f : TrackRec → TrackRec) (s : State) : (setTrack n f s).pedals = s.pedals := rfl

@[simp] theorem setTrack_cues (n : Nat) (f : TrackRec → TrackRec) (s : State) : (setTrack n f s).cues = s.cues := rfl

@[simp] theorem setTrack_tables (n : Nat) (f : TrackRec → TrackRec) (s : State) : (setTrack n f s).tables = s.tables := rfl

@[simp] theorem setTrack_ports (n : Nat) (f : TrackRec → TrackRec) (s : State) : (setTrack n f s).ports = s.ports := rfl

@[simp] theorem setTrack_mem (n : Nat) (f : TrackRec → TrackRec) (s : State) : (setTrack n f s).mem = s.mem := rfl

@[simp] theorem setTrack_settings (n : Nat) (f : TrackRec → TrackRec) (s : State) : (setTrack n f s).settings = s.settings := rfl

@[simp] theorem setTrack_freeDraws (n : Nat) (f : TrackRec → TrackRec) (s : State) : (setTrack n f s).freeDraws = s.freeDraws := rfl

@[simp] theorem setTrack_pending (n : Nat) (f : TrackRec → TrackRec) (s : State) : (setTrack n f s).pending = s.pending := rfl

/-! ### `setKey` -/

@[simp] theorem setKey_clock (k : Nat) (f : KeyRec → KeyRec) (s : State) : (setKey k f s).clock = s.clock := rfl

@[simp] theorem setKey_seek (k : Nat) (f : KeyRec → KeyRec) (s : State) : (setKey k f s).seek = s.seek := rfl

@[simp] theorem setKey_timing (k : Nat) (f : KeyRec → KeyRec) (s : State) : (setKey k f s).timing = s.timing := rfl

@[simp] theorem setKey_intake (k : Nat) (f : KeyRec → KeyRec) (s : State) : (setKey k f s).intake = s.intake := rfl

@[simp] theorem setKey_reading (k : Nat) (f : KeyRec → KeyRec) (s : State) : (setKey k f s).reading = s.reading := rfl

@[simp] theorem setKey_expr (k : Nat) (f : KeyRec → KeyRec) (s : State) : (setKey k f s).expr = s.expr := rfl

@[simp] theorem setKey_sched (k : Nat) (f : KeyRec → KeyRec) (s : State) : (setKey k f s).sched = { s.sched with keys := vmodify s.sched.keys k f } := rfl

@[simp] theorem setKey_drive (k : Nat) (f : KeyRec → KeyRec) (s : State) : (setKey k f s).drive = s.drive := rfl

@[simp] theorem setKey_check (k : Nat) (f : KeyRec → KeyRec) (s : State) : (setKey k f s).check = s.check := rfl

@[simp] theorem setKey_test (k : Nat) (f : KeyRec → KeyRec) (s : State) : (setKey k f s).test = s.test := rfl

@[simp] theorem setKey_pedals (k : Nat) (f : KeyRec → KeyRec) (s : State) : (setKey k f s).pedals = s.pedals := rfl

@[simp] theorem setKey_cues (k : Nat) (f : KeyRec → KeyRec) (s : State) : (setKey k f s).cues = s.cues := rfl

@[simp] theorem setKey_tables (k : Nat) (f : KeyRec → KeyRec) (s : State) : (setKey k f s).tables = s.tables := rfl

@[simp] theorem setKey_ports (k : Nat) (f : KeyRec → KeyRec) (s : State) : (setKey k f s).ports = s.ports := rfl

@[simp] theorem setKey_mem (k : Nat) (f : KeyRec → KeyRec) (s : State) : (setKey k f s).mem = s.mem := rfl

@[simp] theorem setKey_settings (k : Nat) (f : KeyRec → KeyRec) (s : State) : (setKey k f s).settings = s.settings := rfl

@[simp] theorem setKey_freeDraws (k : Nat) (f : KeyRec → KeyRec) (s : State) : (setKey k f s).freeDraws = s.freeDraws := rfl

@[simp] theorem setKey_pending (k : Nat) (f : KeyRec → KeyRec) (s : State) : (setKey k f s).pending = s.pending := rfl

/-! ### `setTimeline` -/

@[simp] theorem setTimeline_clock (f : List Entry → List Entry) (s : State) : (setTimeline f s).clock = s.clock := rfl

@[simp] theorem setTimeline_seek (f : List Entry → List Entry) (s : State) : (setTimeline f s).seek = s.seek := rfl

@[simp] theorem setTimeline_timing (f : List Entry → List Entry) (s : State) : (setTimeline f s).timing = s.timing := rfl

@[simp] theorem setTimeline_intake (f : List Entry → List Entry) (s : State) : (setTimeline f s).intake = s.intake := rfl

@[simp] theorem setTimeline_reading (f : List Entry → List Entry) (s : State) : (setTimeline f s).reading = s.reading := rfl

@[simp] theorem setTimeline_expr (f : List Entry → List Entry) (s : State) : (setTimeline f s).expr = s.expr := rfl

@[simp] theorem setTimeline_sched (f : List Entry → List Entry) (s : State) : (setTimeline f s).sched = { s.sched with timeline := f s.sched.timeline } := rfl

@[simp] theorem setTimeline_drive (f : List Entry → List Entry) (s : State) : (setTimeline f s).drive = s.drive := rfl

@[simp] theorem setTimeline_check (f : List Entry → List Entry) (s : State) : (setTimeline f s).check = s.check := rfl

@[simp] theorem setTimeline_test (f : List Entry → List Entry) (s : State) : (setTimeline f s).test = s.test := rfl

@[simp] theorem setTimeline_pedals (f : List Entry → List Entry) (s : State) : (setTimeline f s).pedals = s.pedals := rfl

@[simp] theorem setTimeline_cues (f : List Entry → List Entry) (s : State) : (setTimeline f s).cues = s.cues := rfl

@[simp] theorem setTimeline_tables (f : List Entry → List Entry) (s : State) : (setTimeline f s).tables = s.tables := rfl

@[simp] theorem setTimeline_ports (f : List Entry → List Entry) (s : State) : (setTimeline f s).ports = s.ports := rfl

@[simp] theorem setTimeline_mem (f : List Entry → List Entry) (s : State) : (setTimeline f s).mem = s.mem := rfl

@[simp] theorem setTimeline_settings (f : List Entry → List Entry) (s : State) : (setTimeline f s).settings = s.settings := rfl

@[simp] theorem setTimeline_freeDraws (f : List Entry → List Entry) (s : State) : (setTimeline f s).freeDraws = s.freeDraws := rfl

@[simp] theorem setTimeline_pending (f : List Entry → List Entry) (s : State) : (setTimeline f s).pending = s.pending := rfl

/-! ### `setPedal` -/

@[simp] theorem setPedal_clock (pd : Pedal) (f : PedalRec → PedalRec) (s : State) : (setPedal pd f s).clock = s.clock := rfl

@[simp] theorem setPedal_seek (pd : Pedal) (f : PedalRec → PedalRec) (s : State) : (setPedal pd f s).seek = s.seek := rfl

@[simp] theorem setPedal_timing (pd : Pedal) (f : PedalRec → PedalRec) (s : State) : (setPedal pd f s).timing = s.timing := rfl

@[simp] theorem setPedal_intake (pd : Pedal) (f : PedalRec → PedalRec) (s : State) : (setPedal pd f s).intake = s.intake := rfl

@[simp] theorem setPedal_reading (pd : Pedal) (f : PedalRec → PedalRec) (s : State) : (setPedal pd f s).reading = s.reading := rfl

@[simp] theorem setPedal_expr (pd : Pedal) (f : PedalRec → PedalRec) (s : State) : (setPedal pd f s).expr = s.expr := rfl

@[simp] theorem setPedal_sched (pd : Pedal) (f : PedalRec → PedalRec) (s : State) : (setPedal pd f s).sched = s.sched := rfl

@[simp] theorem setPedal_drive (pd : Pedal) (f : PedalRec → PedalRec) (s : State) : (setPedal pd f s).drive = s.drive := rfl

@[simp] theorem setPedal_check (pd : Pedal) (f : PedalRec → PedalRec) (s : State) : (setPedal pd f s).check = s.check := rfl

@[simp] theorem setPedal_test (pd : Pedal) (f : PedalRec → PedalRec) (s : State) : (setPedal pd f s).test = s.test := rfl

@[simp] theorem setPedal_pedals (pd : Pedal) (f : PedalRec → PedalRec) (s : State) : (setPedal pd f s).pedals = s.pedals.modify pd f := rfl

@[simp] theorem setPedal_cues (pd : Pedal) (f : PedalRec → PedalRec) (s : State) : (setPedal pd f s).cues = s.cues := rfl

@[simp] theorem setPedal_tables (pd : Pedal) (f : PedalRec → PedalRec) (s : State) : (setPedal pd f s).tables = s.tables := rfl

@[simp] theorem setPedal_ports (pd : Pedal) (f : PedalRec → PedalRec) (s : State) : (setPedal pd f s).ports = s.ports := rfl

@[simp] theorem setPedal_mem (pd : Pedal) (f : PedalRec → PedalRec) (s : State) : (setPedal pd f s).mem = s.mem := rfl

@[simp] theorem setPedal_settings (pd : Pedal) (f : PedalRec → PedalRec) (s : State) : (setPedal pd f s).settings = s.settings := rfl

@[simp] theorem setPedal_freeDraws (pd : Pedal) (f : PedalRec → PedalRec) (s : State) : (setPedal pd f s).freeDraws = s.freeDraws := rfl

@[simp] theorem setPedal_pending (pd : Pedal) (f : PedalRec → PedalRec) (s : State) : (setPedal pd f s).pending = s.pending := rfl

/-! ### `rollStatesUp` -/

@[simp] theorem rollStatesUp_clock (s : State) : (rollStatesUp s).clock = s.clock := rfl

@[simp] theorem rollStatesUp_seek (s : State) : (rollStatesUp s).seek = s.seek := rfl

@[simp] theorem rollStatesUp_timing (s : State) : (rollStatesUp s).timing = s.timing := rfl

@[simp] theorem rollStatesUp_intake (s : State) : (rollStatesUp s).intake = s.intake := rfl

@[simp] theorem rollStatesUp_reading (s : State) : (rollStatesUp s).reading = s.reading := rfl

@[simp] theorem rollStatesUp_expr (s : State) : (rollStatesUp s).expr = s.expr := rfl

@[simp] theorem rollStatesUp_sched (s : State) : (rollStatesUp s).sched = s.sched := rfl

@[simp] theorem rollStatesUp_drive (s : State) : (rollStatesUp s).drive = s.drive := rfl

@[simp] theorem rollStatesUp_check (s : State) : (rollStatesUp s).check = s.check := rfl

@[simp] theorem rollStatesUp_test (s : State) : (rollStatesUp s).test = s.test := rfl

@[simp] theorem rollStatesUp_pedals (s : State) : (rollStatesUp s).pedals = s.pedals.map fun r => { r with roll := .up } := rfl

@[simp] theorem rollStatesUp_cues (s : State) : (rollStatesUp s).cues = s.cues := rfl

@[simp] theorem rollStatesUp_tables (s : State) : (rollStatesUp s).tables = s.tables := rfl

@[simp] theorem rollStatesUp_ports (s : State) : (rollStatesUp s).ports = s.ports := rfl

@[simp] theorem rollStatesUp_mem (s : State) : (rollStatesUp s).mem = s.mem := rfl

@[simp] theorem rollStatesUp_settings (s : State) : (rollStatesUp s).settings = s.settings := rfl

@[simp] theorem rollStatesUp_freeDraws (s : State) : (rollStatesUp s).freeDraws = s.freeDraws := rfl

@[simp] theorem rollStatesUp_pending (s : State) : (rollStatesUp s).pending = s.pending := rfl

/-! ### `endTest` -/

@[simp] theorem endTest_clock (s : State) : (endTest s).clock = s.clock := rfl

@[simp] theorem endTest_seek (s : State) : (endTest s).seek = s.seek := rfl

@[simp] theorem endTest_timing (s : State) : (endTest s).timing = s.timing := rfl

@[simp] theorem endTest_intake (s : State) : (endTest s).intake = s.intake := rfl

@[simp] theorem endTest_reading (s : State) : (endTest s).reading = s.reading := rfl

@[simp] theorem endTest_expr (s : State) : (endTest s).expr = s.expr := rfl

@[simp] theorem endTest_sched (s : State) : (endTest s).sched = s.sched := rfl

@[simp] theorem endTest_drive (s : State) : (endTest s).drive = s.drive := rfl

@[simp] theorem endTest_check (s : State) : (endTest s).check = s.check := rfl

@[simp] theorem endTest_test (s : State) : (endTest s).test = { s.test with phase := .none } := rfl

@[simp] theorem endTest_pedals (s : State) : (endTest s).pedals = s.pedals := rfl

@[simp] theorem endTest_cues (s : State) : (endTest s).cues = s.cues := rfl

@[simp] theorem endTest_tables (s : State) : (endTest s).tables = s.tables := rfl

@[simp] theorem endTest_ports (s : State) : (endTest s).ports = s.ports := rfl

@[simp] theorem endTest_mem (s : State) : (endTest s).mem = s.mem := rfl

@[simp] theorem endTest_settings (s : State) : (endTest s).settings = s.settings := rfl

@[simp] theorem endTest_freeDraws (s : State) : (endTest s).freeDraws = s.freeDraws := rfl

@[simp] theorem endTest_pending (s : State) : (endTest s).pending = s.pending := rfl

/-! ### `setChain` -/

@[simp] theorem setChain_clock (c : Nat) (f : Chain → Chain) (s : State) : (setChain c f s).clock = s.clock := rfl

@[simp] theorem setChain_seek (c : Nat) (f : Chain → Chain) (s : State) : (setChain c f s).seek = s.seek := rfl

@[simp] theorem setChain_timing (c : Nat) (f : Chain → Chain) (s : State) : (setChain c f s).timing = s.timing := rfl

@[simp] theorem setChain_intake (c : Nat) (f : Chain → Chain) (s : State) : (setChain c f s).intake = s.intake := rfl

@[simp] theorem setChain_reading (c : Nat) (f : Chain → Chain) (s : State) : (setChain c f s).reading = s.reading := rfl

@[simp] theorem setChain_expr (c : Nat) (f : Chain → Chain) (s : State) : (setChain c f s).expr = s.expr := rfl

@[simp] theorem setChain_sched (c : Nat) (f : Chain → Chain) (s : State) : (setChain c f s).sched = s.sched := rfl

@[simp] theorem setChain_drive (c : Nat) (f : Chain → Chain) (s : State) : (setChain c f s).drive = { s.drive with chains := vmodify s.drive.chains c f } := rfl

@[simp] theorem setChain_check (c : Nat) (f : Chain → Chain) (s : State) : (setChain c f s).check = s.check := rfl

@[simp] theorem setChain_test (c : Nat) (f : Chain → Chain) (s : State) : (setChain c f s).test = s.test := rfl

@[simp] theorem setChain_pedals (c : Nat) (f : Chain → Chain) (s : State) : (setChain c f s).pedals = s.pedals := rfl

@[simp] theorem setChain_cues (c : Nat) (f : Chain → Chain) (s : State) : (setChain c f s).cues = s.cues := rfl

@[simp] theorem setChain_tables (c : Nat) (f : Chain → Chain) (s : State) : (setChain c f s).tables = s.tables := rfl

@[simp] theorem setChain_ports (c : Nat) (f : Chain → Chain) (s : State) : (setChain c f s).ports = s.ports := rfl

@[simp] theorem setChain_mem (c : Nat) (f : Chain → Chain) (s : State) : (setChain c f s).mem = s.mem := rfl

@[simp] theorem setChain_settings (c : Nat) (f : Chain → Chain) (s : State) : (setChain c f s).settings = s.settings := rfl

@[simp] theorem setChain_freeDraws (c : Nat) (f : Chain → Chain) (s : State) : (setChain c f s).freeDraws = s.freeDraws := rfl

@[simp] theorem setChain_pending (c : Nat) (f : Chain → Chain) (s : State) : (setChain c f s).pending = s.pending := rfl

/-! ### `setChannel` -/

@[simp] theorem setChannel_clock (k : Nat) (f : KeyChannel → KeyChannel) (s : State) : (setChannel k f s).clock = s.clock := rfl

@[simp] theorem setChannel_seek (k : Nat) (f : KeyChannel → KeyChannel) (s : State) : (setChannel k f s).seek = s.seek := rfl

@[simp] theorem setChannel_timing (k : Nat) (f : KeyChannel → KeyChannel) (s : State) : (setChannel k f s).timing = s.timing := rfl

@[simp] theorem setChannel_intake (k : Nat) (f : KeyChannel → KeyChannel) (s : State) : (setChannel k f s).intake = s.intake := rfl

@[simp] theorem setChannel_reading (k : Nat) (f : KeyChannel → KeyChannel) (s : State) : (setChannel k f s).reading = s.reading := rfl

@[simp] theorem setChannel_expr (k : Nat) (f : KeyChannel → KeyChannel) (s : State) : (setChannel k f s).expr = s.expr := rfl

@[simp] theorem setChannel_sched (k : Nat) (f : KeyChannel → KeyChannel) (s : State) : (setChannel k f s).sched = s.sched := rfl

@[simp] theorem setChannel_drive (k : Nat) (f : KeyChannel → KeyChannel) (s : State) : (setChannel k f s).drive = { s.drive with channels := vmodify s.drive.channels k f } := rfl

@[simp] theorem setChannel_check (k : Nat) (f : KeyChannel → KeyChannel) (s : State) : (setChannel k f s).check = s.check := rfl

@[simp] theorem setChannel_test (k : Nat) (f : KeyChannel → KeyChannel) (s : State) : (setChannel k f s).test = s.test := rfl

@[simp] theorem setChannel_pedals (k : Nat) (f : KeyChannel → KeyChannel) (s : State) : (setChannel k f s).pedals = s.pedals := rfl

@[simp] theorem setChannel_cues (k : Nat) (f : KeyChannel → KeyChannel) (s : State) : (setChannel k f s).cues = s.cues := rfl

@[simp] theorem setChannel_tables (k : Nat) (f : KeyChannel → KeyChannel) (s : State) : (setChannel k f s).tables = s.tables := rfl

@[simp] theorem setChannel_ports (k : Nat) (f : KeyChannel → KeyChannel) (s : State) : (setChannel k f s).ports = s.ports := rfl

@[simp] theorem setChannel_mem (k : Nat) (f : KeyChannel → KeyChannel) (s : State) : (setChannel k f s).mem = s.mem := rfl

@[simp] theorem setChannel_settings (k : Nat) (f : KeyChannel → KeyChannel) (s : State) : (setChannel k f s).settings = s.settings := rfl

@[simp] theorem setChannel_freeDraws (k : Nat) (f : KeyChannel → KeyChannel) (s : State) : (setChannel k f s).freeDraws = s.freeDraws := rfl

@[simp] theorem setChannel_pending (k : Nat) (f : KeyChannel → KeyChannel) (s : State) : (setChannel k f s).pending = s.pending := rfl

/-! ### `setBusy` -/

@[simp] theorem setBusy_clock (f : List BusySlot → List BusySlot) (s : State) : (setBusy f s).clock = s.clock := rfl

@[simp] theorem setBusy_seek (f : List BusySlot → List BusySlot) (s : State) : (setBusy f s).seek = s.seek := rfl

@[simp] theorem setBusy_timing (f : List BusySlot → List BusySlot) (s : State) : (setBusy f s).timing = s.timing := rfl

@[simp] theorem setBusy_intake (f : List BusySlot → List BusySlot) (s : State) : (setBusy f s).intake = s.intake := rfl

@[simp] theorem setBusy_reading (f : List BusySlot → List BusySlot) (s : State) : (setBusy f s).reading = s.reading := rfl

@[simp] theorem setBusy_expr (f : List BusySlot → List BusySlot) (s : State) : (setBusy f s).expr = s.expr := rfl

@[simp] theorem setBusy_sched (f : List BusySlot → List BusySlot) (s : State) : (setBusy f s).sched = s.sched := rfl

@[simp] theorem setBusy_drive (f : List BusySlot → List BusySlot) (s : State) : (setBusy f s).drive = { s.drive with busy := f s.drive.busy } := rfl

@[simp] theorem setBusy_check (f : List BusySlot → List BusySlot) (s : State) : (setBusy f s).check = s.check := rfl

@[simp] theorem setBusy_test (f : List BusySlot → List BusySlot) (s : State) : (setBusy f s).test = s.test := rfl

@[simp] theorem setBusy_pedals (f : List BusySlot → List BusySlot) (s : State) : (setBusy f s).pedals = s.pedals := rfl

@[simp] theorem setBusy_cues (f : List BusySlot → List BusySlot) (s : State) : (setBusy f s).cues = s.cues := rfl

@[simp] theorem setBusy_tables (f : List BusySlot → List BusySlot) (s : State) : (setBusy f s).tables = s.tables := rfl

@[simp] theorem setBusy_ports (f : List BusySlot → List BusySlot) (s : State) : (setBusy f s).ports = s.ports := rfl

@[simp] theorem setBusy_mem (f : List BusySlot → List BusySlot) (s : State) : (setBusy f s).mem = s.mem := rfl

@[simp] theorem setBusy_settings (f : List BusySlot → List BusySlot) (s : State) : (setBusy f s).settings = s.settings := rfl

@[simp] theorem setBusy_freeDraws (f : List BusySlot → List BusySlot) (s : State) : (setBusy f s).freeDraws = s.freeDraws := rfl

@[simp] theorem setBusy_pending (f : List BusySlot → List BusySlot) (s : State) : (setBusy f s).pending = s.pending := rfl

/-! ### `latchMask` -/

@[simp] theorem latchMask_clock (s : State) : (latchMask s).clock = s.clock := rfl

@[simp] theorem latchMask_seek (s : State) : (latchMask s).seek = s.seek := rfl

@[simp] theorem latchMask_timing (s : State) : (latchMask s).timing = s.timing := rfl

@[simp] theorem latchMask_intake (s : State) : (latchMask s).intake = s.intake := rfl

@[simp] theorem latchMask_reading (s : State) : (latchMask s).reading = { s.reading with leaderMask := s.tables.live.leaderMask } := rfl

@[simp] theorem latchMask_expr (s : State) : (latchMask s).expr = s.expr := rfl

@[simp] theorem latchMask_sched (s : State) : (latchMask s).sched = s.sched := rfl

@[simp] theorem latchMask_drive (s : State) : (latchMask s).drive = s.drive := rfl

@[simp] theorem latchMask_check (s : State) : (latchMask s).check = s.check := rfl

@[simp] theorem latchMask_test (s : State) : (latchMask s).test = s.test := rfl

@[simp] theorem latchMask_pedals (s : State) : (latchMask s).pedals = s.pedals := rfl

@[simp] theorem latchMask_cues (s : State) : (latchMask s).cues = s.cues := rfl

@[simp] theorem latchMask_tables (s : State) : (latchMask s).tables = s.tables := rfl

@[simp] theorem latchMask_ports (s : State) : (latchMask s).ports = s.ports := rfl

@[simp] theorem latchMask_mem (s : State) : (latchMask s).mem = s.mem := rfl

@[simp] theorem latchMask_settings (s : State) : (latchMask s).settings = s.settings := rfl

@[simp] theorem latchMask_freeDraws (s : State) : (latchMask s).freeDraws = s.freeDraws := rfl

@[simp] theorem latchMask_pending (s : State) : (latchMask s).pending = s.pending := rfl

end Sys2Proof.Laws
end

