-- ==== Sys2Proof/Laws/Memory.lean ====
section
/-! SUPPORT. The byte memories: what a read gives after a write, and that every memory operation keeps the canonical
form. -/

namespace Sys2Proof.Laws

open Sys2Proof Sys2Proof.Machine

/-! ### Reading -/

theorem mem_read_append (d : Byte) (m n : Mem) (a : Nat) (h : ∀ c ∈ n, c.1 ≠ a) : Mem.read d (m ++ n) a = Mem.read d m a := by
  induction m with
  | nil =>
    induction n with
    | nil => rfl
    | cons c t ih =>
      obtain ⟨x, v⟩ := c
      have hx : x ≠ a := h (x, v) (by simp)
      have ih' : Mem.read d ([] ++ t) a = Mem.read d [] a := ih fun c hc => h c (List.mem_cons_of_mem _ hc)
      simpa [Mem.read, hx] using ih'
  | cons c t ih =>
    obtain ⟨x, v⟩ := c
    by_cases hx : x = a <;> simp [Mem.read, hx, ih]

theorem mem_read_append_of_not_mem (d : Byte) (m n : Mem) (a : Nat) (h : ∀ c ∈ m, c.1 ≠ a) :
    Mem.read d (m ++ n) a = Mem.read d n a := by
  induction m with
  | nil => rfl
  | cons c t ih =>
    obtain ⟨x, v⟩ := c
    have hx : x ≠ a := h (x, v) (by simp)
    simpa [Mem.read, hx] using ih fun c hc => h c (List.mem_cons_of_mem _ hc)

theorem mem_read_filter (d : Byte) (m : Mem) (q : Nat → Bool) (a : Nat) (h : q a = true) :
    Mem.read d (m.filter fun c => q c.1) a = Mem.read d m a := by
  induction m with
  | nil => rfl
  | cons c t ih =>
    obtain ⟨x, v⟩ := c
    by_cases hx : x = a
    · subst hx; simp [Mem.read, h]
    · by_cases hq : q x = true
      · simp [Mem.read, hq, hx, ih]
      · simp [Mem.read, hq, hx, ih]

/-- Cells list addresses of their block alone. -/
theorem mem_cells_bounds (d : Byte) (bs : List Byte) :
    ∀ a, ∀ c ∈ Mem.cells d a bs, a ≤ c.1 ∧ c.1 < a + bs.length ∧ c.2 ≠ d := by
  induction bs with
  | nil => intro a c hc; simp [Mem.cells] at hc
  | cons b t ih =>
    intro a c hc
    by_cases hb : b = d
    · rw [Mem.cells, if_pos hb] at hc
      obtain ⟨h1, h2, h3⟩ := ih (a + 1) c hc
      exact ⟨by omega, by simp only [List.length_cons]; omega, h3⟩
    · rw [Mem.cells, if_neg hb] at hc
      rcases List.mem_cons.mp hc with rfl | hc
      · exact ⟨Nat.le_refl a, by simp, hb⟩
      · obtain ⟨h1, h2, h3⟩ := ih (a + 1) c hc
        exact ⟨by omega, by simp only [List.length_cons]; omega, h3⟩

/-- A block reads back byte by byte. -/
theorem mem_read_cells (d : Byte) (bs : List Byte) :
    ∀ a i, i < bs.length → Mem.read d (Mem.cells d a bs) (a + i) = bs.getD i d := by
  induction bs with
  | nil => intro a i h; simp at h
  | cons b t ih =>
    intro a i h
    cases i with
    | zero =>
      by_cases hb : b = d
      · rw [Mem.cells, if_pos hb]
        have key : ∀ m : Mem, (∀ c ∈ m, c.1 ≠ a) → Mem.read d m a = d := by
          intro m hm
          have := mem_read_append_of_not_mem d m [] a hm
          simpa [Mem.read] using this
        show Mem.read d (Mem.cells d (a + 1) t) a = _
        rw [key _ fun c hc => by have := (mem_cells_bounds d t (a + 1) c hc).1; omega]
        simp [hb]
      · simp [Mem.cells, hb, Mem.read]
    | succ i =>
      have hi : i < t.length := by simpa using h
      have e : a + (i + 1) = a + 1 + i := by omega
      by_cases hb : b = d
      · rw [Mem.cells, if_pos hb, e, ih (a + 1) i hi]; simp
      · have hne : a ≠ a + 1 + i := by omega
        rw [Mem.cells, if_neg hb, e, Mem.read, if_neg hne, ih (a + 1) i hi]; simp

/-- Outside the block a read gives what it gave. -/
theorem mem_read_writeBlock_outside (d : Byte) (m : Mem) (a x : Nat) (bs : List Byte) (h : x < a ∨ a + bs.length ≤ x) :
    Mem.read d (Mem.writeBlock d m a bs) x = Mem.read d m x := by
  have hcells : ∀ c ∈ Mem.cells d a bs, c.1 ≠ x := fun c hc => by
    have := mem_cells_bounds d bs a c hc; omega
  unfold Mem.writeBlock
  rcases h with h | h
  · rw [mem_read_append _ _ _ _ (by
        intro c hc; have := (List.mem_filter.mp hc).2; simp only [decide_eq_true_eq] at this; omega)]
    rw [mem_read_append _ _ _ _ hcells, mem_read_filter d m (fun y => decide (y < a)) x (by simpa using h)]
  · rw [List.append_assoc, mem_read_append_of_not_mem _ _ _ _ (by
        intro c hc; have := (List.mem_filter.mp hc).2; simp only [decide_eq_true_eq] at this; omega)]
    rw [mem_read_append_of_not_mem _ _ _ _ hcells, mem_read_filter d m (fun y => decide (a + bs.length ≤ y)) x (by simpa using h)]

/-- Inside the block a read gives the byte written. -/
theorem mem_read_writeBlock_inside (d : Byte) (m : Mem) (a i : Nat) (bs : List Byte) (h : i < bs.length) :
    Mem.read d (Mem.writeBlock d m a bs) (a + i) = bs.getD i d := by
  unfold Mem.writeBlock
  rw [List.append_assoc, mem_read_append_of_not_mem _ _ _ _ (by
      intro c hc; have := (List.mem_filter.mp hc).2; simp only [decide_eq_true_eq] at this; omega)]
  rw [mem_read_append _ _ _ _ (by
      intro c hc; have := (List.mem_filter.mp hc).2; simp only [decide_eq_true_eq] at this; omega)]
  exact mem_read_cells d bs a i h

theorem mem_readBlock_length (d : Byte) (m : Mem) : ∀ n a, (Mem.readBlock d m a n).length = n := by
  intro n
  induction n with
  | zero => intro a; rfl
  | succ n ih => intro a; simp [Mem.readBlock, ih]

theorem mem_readBlock_getD (d : Byte) (m : Mem) :
    ∀ n a i, i < n → (Mem.readBlock d m a n).getD i d = Mem.read d m (a + i) := by
  intro n
  induction n with
  | zero => intro a i h; omega
  | succ n ih =>
    intro a i h
    cases i with
    | zero => simp [Mem.readBlock]
    | succ i => rw [Mem.readBlock, List.getD_cons_succ, ih (a + 1) i (by omega)]; congr 1; omega

/-- A block read depends on the bytes read alone. -/
theorem mem_readBlock_congr (d : Byte) (m m' : Mem) :
    ∀ n a, (∀ i, i < n → Mem.read d m (a + i) = Mem.read d m' (a + i)) → Mem.readBlock d m a n = Mem.readBlock d m' a n := by
  intro n
  induction n with
  | zero => intro a _; rfl
  | succ n ih =>
    intro a h
    have h0 := h 0 (by omega)
    rw [Nat.add_zero] at h0
    rw [Mem.readBlock, Mem.readBlock, h0, ih (a + 1) fun i hi => by
      have := h (i + 1) (by omega); rwa [show a + 1 + i = a + (i + 1) by omega]]

/-- A block written reads back whole. -/
theorem mem_readBlock_writeBlock (d : Byte) (m : Mem) (a : Nat) (bs : List Byte) :
    Mem.readBlock d (Mem.writeBlock d m a bs) a bs.length = bs := by
  apply List.ext_getElem (by rw [mem_readBlock_length])
  intro i h1 h2
  have := mem_readBlock_getD d (Mem.writeBlock d m a bs) bs.length a i h2
  rw [mem_read_writeBlock_inside d m a i bs h2] at this
  simpa [List.getD_eq_getElem?_getD, h1, h2] using this

/-! ### The canonical form -/

theorem mem_cells_pairwise (d : Byte) (bs : List Byte) : ∀ a, (Mem.cells d a bs).Pairwise fun x y => x.1 < y.1 := by
  induction bs with
  | nil => intro a; simp [Mem.cells]
  | cons b t ih =>
    intro a
    by_cases hb : b = d
    · rw [Mem.cells, if_pos hb]; exact ih (a + 1)
    · rw [Mem.cells, if_neg hb, List.pairwise_cons]
      exact ⟨fun c hc => by have := (mem_cells_bounds d t (a + 1) c hc).1; simp only; omega, ih (a + 1)⟩

/-- A write keeps the canonical form. -/
theorem mem_writeBlock_wf (d : Byte) (m : Mem) (a : Nat) (bs : List Byte) (h : Mem.wf d m) :
    Mem.wf d (Mem.writeBlock d m a bs) := by
  obtain ⟨hp, hd⟩ := h
  unfold Mem.writeBlock
  constructor
  · rw [List.pairwise_append, List.pairwise_append]
    refine ⟨⟨hp.filter _, mem_cells_pairwise d bs a, ?_⟩, hp.filter _, ?_⟩
    · intro x hx y hy
      have h1 := (List.mem_filter.mp hx).2
      have h2 := mem_cells_bounds d bs a y hy
      simp only [decide_eq_true_eq] at h1
      omega
    · intro x hx y hy
      have h2 := (List.mem_filter.mp hy).2
      simp only [decide_eq_true_eq] at h2
      rcases List.mem_append.mp hx with hx | hx
      · have h1 := (List.mem_filter.mp hx).2
        simp only [decide_eq_true_eq] at h1
        omega
      · have h1 := mem_cells_bounds d bs a x hx
        omega
  · intro c hc
    rcases List.mem_append.mp hc with hc | hc
    · rcases List.mem_append.mp hc with hc | hc
      · exact hd c (List.mem_filter.mp hc).1
      · exact (mem_cells_bounds d bs a c hc).2.2
    · exact hd c (List.mem_filter.mp hc).1

/-- A write inside an address space stays inside it. -/
theorem mem_writeBlock_below (d : Byte) (m : Mem) (n a : Nat) (bs : List Byte) (h : Mem.below n m) (hb : a + bs.length ≤ n) :
    Mem.below n (Mem.writeBlock d m a bs) := by
  intro c hc
  unfold Mem.writeBlock at hc
  rcases List.mem_append.mp hc with hc | hc
  · rcases List.mem_append.mp hc with hc | hc
    · exact h c (List.mem_filter.mp hc).1
    · have := mem_cells_bounds d bs a c hc; omega
  · exact h c (List.mem_filter.mp hc).1

/-! ### Record memory -/

theorem readByte_writeBytes_outside (s : State) (a x : Nat) (bs : List Byte) (h : x < a ∨ a + bs.length ≤ x) :
    readByte (writeBytes a bs s) x = readByte s x := mem_read_writeBlock_outside _ _ _ _ _ h

theorem readByte_writeBytes_inside (s : State) (a i : Nat) (bs : List Byte) (h : i < bs.length) :
    readByte (writeBytes a bs s) (a + i) = bs.getD i recordFill := mem_read_writeBlock_inside _ _ _ _ _ h

theorem readBytes_writeBytes (s : State) (a : Nat) (bs : List Byte) :
    readBytes (writeBytes a bs s) a bs.length = bs := mem_readBlock_writeBlock _ _ _ _

/-- `writeBytes` keeps the memory invariant where it writes inside record memory. -/
theorem writeBytes_memoryOk (a : Nat) (bs : List Byte) (s : State) (h : s.memoryOk) (hb : a + bs.length ≤ recordSize) :
    (writeBytes a bs s).memoryOk :=
  ⟨mem_writeBlock_wf _ _ _ _ h.1, mem_writeBlock_below _ _ _ _ _ h.2.1 hb, h.2.2⟩

/-- The memory invariant rests on three fields alone. -/
theorem memoryOk_congr {s t : State} (hm : t.mem = s.mem) (hs : t.settings = s.settings)
    (hc : t.tables.storeCopy = s.tables.storeCopy) (h : s.memoryOk) : t.memoryOk := by
  unfold State.memoryOk at *
  rw [hm, hs, hc]
  exact h

end Sys2Proof.Laws
end

