-- ==== Sys2Proof/Laws/Frames.lean ====
section
/-! SUPPORT. What the shared operations leave alone: one equation for each.  `schedule` and `outside` put the pieces
that a group of operations may change at fixed values, so that an equation between them says that every other piece is
as it was; a field follows by `congrArg`. -/

namespace Sys2Proof.Laws

open Sys2Proof Sys2Proof.Machine

/-- `s` with the pedals, the waiting test pulse and the Scheduler's Timeline, tracks and keys put aside. -/
def offSchedule (s : State) : State :=
  { s with
    sched := { s.sched with tracks := Scheduler.reset.tracks, keys := Scheduler.reset.keys, timeline := [], nextSeq := 0, restrikes := 0 }
    pedals := ⟨PedalRec.reset, PedalRec.reset⟩
    test := { s.test with phase := .none } }

/-- `s` with every piece put aside that play and reading may change; what is left is the ring's attachment, the live
tables, the drive, the cues, both memories and the queue. -/
def outside (s : State) : State :=
  { s with
    clock := RollClock.reset
    seek := SeekRecord.reset
    timing := Timing.reset
    intake :=
      { Intake.reset with
        attached := s.intake.attached
        base := s.intake.base
        q := s.intake.q
        policy := s.intake.policy
        index := s.intake.index
        owned := s.intake.owned }
    reading := Reading.reset
    expr := Expression.reset
    sched := Scheduler.reset
    test := TestPulse.reset
    pedals := ⟨PedalRec.reset, PedalRec.reset⟩
    tables := { s.tables with appliedProfile := 0 }
    ports := ⟨PortRec.reset, PortRec.reset⟩ }

/-- What is unchanged under `offSchedule` is unchanged under `outside`. -/
theorem outside_of_offSchedule {s t : State} (h : offSchedule t = offSchedule s) : outside t = outside s := by
  have e : ∀ x, outside x = outside (offSchedule x) := fun _ => rfl
  rw [e t, e s, h]

theorem outside_mem {s t : State} (h : outside t = outside s) : t.mem = s.mem := by
  have := congrArg State.mem h; exact this

theorem outside_settings {s t : State} (h : outside t = outside s) : t.settings = s.settings := by
  have := congrArg State.settings h; exact this

theorem outside_pending {s t : State} (h : outside t = outside s) : t.pending = s.pending := by
  have := congrArg State.pending h; exact this

theorem outside_drive {s t : State} (h : outside t = outside s) : t.drive = s.drive := by
  have := congrArg State.drive h; exact this

theorem outside_cues {s t : State} (h : outside t = outside s) : t.cues = s.cues := by
  have := congrArg State.cues h; exact this

theorem outside_check {s t : State} (h : outside t = outside s) : t.check = s.check := by
  have := congrArg State.check h; exact this

theorem outside_tables {s t : State} (h : outside t = outside s) :
    { t.tables with appliedProfile := 0 } = { s.tables with appliedProfile := 0 } := by
  have := congrArg State.tables h; exact this

theorem outside_storeCopy {s t : State} (h : outside t = outside s) : t.tables.storeCopy = s.tables.storeCopy := by
  have := congrArg TableStore.storeCopy (outside_tables h); exact this

/-- The ring's attachment. -/
theorem outside_ring {s t : State} (h : outside t = outside s) :
    t.intake.attached = s.intake.attached ∧ t.intake.base = s.intake.base ∧ t.intake.q = s.intake.q
      ∧ t.intake.index = s.intake.index ∧ t.intake.owned = s.intake.owned := by
  have e := congrArg State.intake h
  have h1 := congrArg Intake.attached e
  have h2 := congrArg Intake.base e
  have h3 := congrArg Intake.q e
  have h4 := congrArg Intake.index e
  have h5 := congrArg Intake.owned e
  exact ⟨h1, h2, h3, h4, h5⟩

/-- The memory invariant follows what `outside` keeps. -/
theorem memoryOk_outside {s t : State} (h : outside t = outside s) (hs : s.memoryOk) : t.memoryOk :=
  memoryOk_congr (outside_mem h) (outside_settings h) (outside_storeCopy h) hs

/-- So does the ring invariant. -/
theorem ringOk_outside {s t : State} (h : outside t = outside s) (hs : s.ringOk) : t.ringOk := by
  obtain ⟨h1, h2, h3, h4, _⟩ := outside_ring h
  unfold State.ringOk at *
  rw [h1, h2, h3, h4]
  exact hs

/-- A fold of steps that each keep something keeps it. -/
theorem foldl_keeps {α β γ : Type} (m : α → γ) (f : α → β → α) (h : ∀ a b, m (f a b) = m a) :
    ∀ (l : List β) (a : α), m (l.foldl f a) = m a := by
  intro l
  induction l with
  | nil => intro a; rfl
  | cons b t ih => intro a; rw [List.foldl_cons, ih, h]

/-- A fold of steps that each keep a property keeps it. -/
theorem foldl_invariant {α β : Type} (p : α → Prop) (f : α → β → α) (h : ∀ a b, p a → p (f a b)) :
    ∀ (l : List β) (a : α), p a → p (l.foldl f a) := by
  intro l
  induction l with
  | nil => intro a ha; exact ha
  | cons b t ih => intro a ha; exact ih _ (h a b ha)

/-! ### The Scheduler's operations -/

@[simp] theorem offSchedule_setTrack (n : Nat) (f : TrackRec → TrackRec) (s : State) :
    offSchedule (setTrack n f s) = offSchedule s := rfl

@[simp] theorem offSchedule_setKey (k : Nat) (f : KeyRec → KeyRec) (s : State) :
    offSchedule (setKey k f s) = offSchedule s := rfl

@[simp] theorem offSchedule_setTimeline (f : List Entry → List Entry) (s : State) :
    offSchedule (setTimeline f s) = offSchedule s := rfl

@[simp] theorem offSchedule_setPedal (pd : Pedal) (f : PedalRec → PedalRec) (s : State) :
    offSchedule (setPedal pd f s) = offSchedule s := rfl

@[simp] theorem offSchedule_setEntry (q : Nat) (f : Entry → Entry) (s : State) :
    offSchedule (setEntry q f s) = offSchedule s := rfl

@[simp] theorem offSchedule_dropEntry (q : Nat) (s : State) : offSchedule (dropEntry q s) = offSchedule s := rfl

@[simp] theorem offSchedule_refreshHeads (s : State) : offSchedule (refreshHeads s) = offSchedule s := rfl

@[simp] theorem offSchedule_addEntry (b : EntryBody) (d : Nat) (s : State) : offSchedule (addEntry b d s) = offSchedule s := rfl

@[simp] theorem offSchedule_rollStatesUp (s : State) : offSchedule (rollStatesUp s) = offSchedule s := rfl

@[simp] theorem offSchedule_endTest (s : State) : offSchedule (endTest s) = offSchedule s := rfl

@[simp] theorem offSchedule_handOnEntry (s : State) (e : Entry) : offSchedule (handOnEntry s e) = offSchedule s := by
  unfold handOnEntry
  cases e.body <;> dsimp only <;> try split
  all_goals rfl

@[simp] theorem offSchedule_handOnOnce (s : State) : offSchedule (handOnOnce s) = offSchedule s := by
  unfold handOnOnce
  exact (foldl_keeps offSchedule handOnEntry offSchedule_handOnEntry _ _).trans rfl

@[simp] theorem offSchedule_handOnAll (s : State) : offSchedule (handOnAll s) = offSchedule s := by
  simp [handOnAll]

@[simp] theorem offSchedule_noteFinishes (n : Nat) (s : State) : offSchedule (noteFinishes n s) = offSchedule s := by
  unfold noteFinishes; split <;> rfl

@[simp] theorem offSchedule_createStrike (n level : Nat) (caught : Option Nat) (line : Nat) (s : State) :
    offSchedule (createStrike n level caught line s) = offSchedule s := by
  unfold createStrike
  dsimp only
  split
  · rfl
  · simp

@[simp] theorem offSchedule_noteOnset (n line : Nat) (s : State) : offSchedule (noteOnset n line s) = offSchedule s := by
  simp [noteOnset]

@[simp] theorem offSchedule_noteClose (n line : Nat) (s : State) : offSchedule (noteClose n line s) = offSchedule s := by
  unfold noteClose
  dsimp only
  split
  · rfl
  · simp

@[simp] theorem offSchedule_pedalOnset (pd : Pedal) (line : Nat) (s : State) :
    offSchedule (pedalOnset pd line s) = offSchedule s := by
  simp [pedalOnset]

@[simp] theorem offSchedule_pedalClose (pd : Pedal) (line : Nat) (s : State) :
    offSchedule (pedalClose pd line s) = offSchedule s := by
  simp [pedalClose]

@[simp] theorem offSchedule_markInterrupted (n : Nat) (s : State) : offSchedule (markInterrupted n s) = offSchedule s := by
  unfold markInterrupted
  dsimp only
  split <;> simp

@[simp] theorem offSchedule_markAll (s : State) : offSchedule (markAll s) = offSchedule s := by
  unfold markAll
  exact foldl_keeps offSchedule (fun t n => markInterrupted n t) (fun t n => offSchedule_markInterrupted n t) _ _

@[simp] theorem offSchedule_withdrawTest (s : State) : offSchedule (withdrawTest s) = offSchedule s := by
  unfold withdrawTest; split <;> rfl

@[simp] theorem offSchedule_emptyTimeline (s : State) : offSchedule (emptyTimeline s) = offSchedule s := by
  unfold emptyTimeline
  rw [offSchedule_withdrawTest]
  rfl

@[simp] theorem offSchedule_clearSchedule (s : State) : offSchedule (clearSchedule s) = offSchedule s := by
  have h : offSchedule (clearSchedule s) = offSchedule (emptyTimeline s) := rfl
  rw [h, offSchedule_emptyTimeline]

/-! ### The Pedal Unit's operations -/

@[simp] theorem offSchedule_cancelLift (pd : Pedal) (s : State) : offSchedule (cancelLift pd s) = offSchedule s := rfl

@[simp] theorem offSchedule_restPedal (pd : Pedal) (s : State) : offSchedule (restPedal pd s) = offSchedule s := by
  unfold restPedal
  rw [offSchedule_setPedal, offSchedule_cancelLift]

@[simp] theorem offSchedule_restPedals (s : State) : offSchedule (restPedals s) = offSchedule s := by
  simp [restPedals]

@[simp] theorem offSchedule_moveToTarget (pd : Pedal) (s : State) : offSchedule (moveToTarget pd s) = offSchedule s := by
  unfold moveToTarget
  dsimp only
  split <;> rfl

/-! ### What leaves the drive, the cues, the memories and the queue -/

@[simp] theorem outside_raise (a : Attention) (s : State) : outside (raise a s) = outside s := rfl

@[simp] theorem outside_respond (p : Port) (r : Response) (s : State) : outside (respond p r s) = outside s := rfl

@[simp] theorem outside_gather (p : Port) (bs : List Byte) (s : State) : outside (gather p bs s) = outside s := rfl

@[simp] theorem outside_setP (x : Nat) (s : State) : outside (setP x s) = outside s := rfl

@[simp] theorem outside_advanceTo (x : Nat) (s : State) : outside (advanceTo x s) = outside s := rfl

@[simp] theorem outside_setRoll (st : RollState) (s : State) : outside (setRoll st s) = outside s := rfl

@[simp] theorem outside_setC (c : Int) (s : State) : outside (setC c s) = outside s := rfl

@[simp] theorem outside_beginPlaying (s : State) : outside (beginPlaying s) = outside s := rfl

@[simp] theorem outside_rederive (s : State) : outside (rederive s) = outside s := by
  unfold rederive
  dsimp only
  split <;> rfl

@[simp] theorem outside_handOnAll (s : State) : outside (handOnAll s) = outside s :=
  outside_of_offSchedule (offSchedule_handOnAll s)

@[simp] theorem outside_settle (s : State) : outside (settle s) = outside s := by
  simp [settle]

@[simp] theorem outside_markAll (s : State) : outside (markAll s) = outside s :=
  outside_of_offSchedule (offSchedule_markAll s)

@[simp] theorem outside_emptyTimeline (s : State) : outside (emptyTimeline s) = outside s :=
  outside_of_offSchedule (offSchedule_emptyTimeline s)

@[simp] theorem outside_clearSchedule (s : State) : outside (clearSchedule s) = outside s :=
  outside_of_offSchedule (offSchedule_clearSchedule s)

@[simp] theorem outside_restPedals (s : State) : outside (restPedals s) = outside s :=
  outside_of_offSchedule (offSchedule_restPedals s)

@[simp] theorem outside_rollStatesUp (s : State) : outside (rollStatesUp s) = outside s := rfl

@[simp] theorem outside_moveToTarget (pd : Pedal) (s : State) : outside (moveToTarget pd s) = outside s :=
  outside_of_offSchedule (offSchedule_moveToTarget pd s)

@[simp] theorem outside_endTest (s : State) : outside (endTest s) = outside s := rfl

@[simp] theorem outside_createStrike (n level : Nat) (caught : Option Nat) (line : Nat) (s : State) :
    outside (createStrike n level caught line s) = outside s :=
  outside_of_offSchedule (offSchedule_createStrike n level caught line s)

@[simp] theorem outside_noteOnset (n line : Nat) (s : State) : outside (noteOnset n line s) = outside s :=
  outside_of_offSchedule (offSchedule_noteOnset n line s)

@[simp] theorem outside_noteClose (n line : Nat) (s : State) : outside (noteClose n line s) = outside s :=
  outside_of_offSchedule (offSchedule_noteClose n line s)

@[simp] theorem outside_pedalOnset (pd : Pedal) (line : Nat) (s : State) : outside (pedalOnset pd line s) = outside s :=
  outside_of_offSchedule (offSchedule_pedalOnset pd line s)

@[simp] theorem outside_pedalClose (pd : Pedal) (line : Nat) (s : State) : outside (pedalClose pd line s) = outside s :=
  outside_of_offSchedule (offSchedule_pedalClose pd line s)

@[simp] theorem outside_starve (s : State) : outside (starve s) = outside s := rfl

@[simp] theorem outside_finishRoll (e : Nat) (s : State) : outside (finishRoll e s) = outside s := by
  simp [finishRoll]

@[simp] theorem outside_meetBoundary (s : State) : outside (meetBoundary s) = outside s := by
  unfold meetBoundary
  repeat' split
  all_goals simp

@[simp] theorem outside_pauseRoll (s : State) : outside (pauseRoll s) = outside s := by
  simp [pauseRoll]

/-! ### Reading a line -/

@[simp] theorem outside_takeSamples (ln : Line) (s : State) : outside (takeSamples ln s) = outside s := rfl

@[simp] theorem outside_shadeLine (n : Nat) (s : State) : outside (shadeLine n s) = outside s := rfl

@[simp] theorem outside_noteLine (ln : Line) (s : State) : outside (noteLine ln s) = outside s := rfl

@[simp] theorem outside_passEvent (tr : Nat) (ev : FilterEvent) (s : State) : outside (passEvent tr ev s) = outside s := by
  unfold passEvent
  repeat' split
  all_goals simp

@[simp] theorem outside_passEvents (evs : List (Nat × FilterEvent)) (s : State) :
    outside (passEvents evs s) = outside s := by
  unfold passEvents
  exact foldl_keeps outside (fun t (e : Nat × FilterEvent) => passEvent e.1 e.2 t) (fun t e => outside_passEvent e.1 e.2 t) _ _

@[simp] theorem outside_readPlayed (ln : Line) (s : State) : outside (readPlayed ln s) = outside s := by
  simp [readPlayed]

@[simp] theorem outside_readSilently (ln : Line) (s : State) : outside (readSilently ln s) = outside s := by
  simp [readSilently]

@[simp] theorem outside_clearReading (s : State) : outside (clearReading s) = outside s := rfl

@[simp] theorem outside_clearExpression (s : State) : outside (clearExpression s) = outside s := rfl

@[simp] theorem outside_applyProfile (i : Nat) (s : State) : outside (applyProfile i s) = outside s := rfl

@[simp] theorem outside_latchMask (s : State) : outside (latchMask s) = outside s := rfl

@[simp] theorem outside_feedSignature (ln : Line) (s : State) : outside (feedSignature ln s) = outside s := rfl

@[simp] theorem outside_endLeader (s : State) : outside (endLeader s) = outside s := rfl

@[simp] theorem outside_readLeader (ln : Line) (s : State) : outside (readLeader ln s) = outside s := by
  unfold readLeader
  dsimp only
  repeat' split
  all_goals simp

@[simp] theorem outside_handOver (n : Nat) (s : State) : outside (handOver n s) = outside s := rfl

end Sys2Proof.Laws
end

