-- ==== Sys2Proof/Laws/Grants.lean ====
section
/-! SUPPORT. The grant order of strikes (R111), how many entries stage 4 leaves in the Timeline, and the key records that
hand-on keeps. -/

namespace Sys2Proof.Laws
open Sys2Proof.Machine

/-! ### The grant order -/

/-- `x` comes no later than `y` in the order of R111. -/
def grantedBefore (x y : Entry) : Prop :=
  ∀ a b, x.body = .strike a → y.body = .strike b →
    x.releasePos < y.releasePos
      ∨ x.releasePos = y.releasePos ∧ (b.level < a.level ∨ a.level = b.level ∧ a.key ≤ b.key)

theorem before_strikes {x y : Entry} {a b : StrikeBody} (hx : x.body = .strike a) (hy : y.body = .strike b) :
    x.before y = true ↔ x.releasePos < y.releasePos
      ∨ x.releasePos = y.releasePos ∧ (b.level < a.level ∨ a.level = b.level ∧ a.key < b.key) := by
  simp [Entry.before, hx, hy]

theorem grantedBefore_of_before {x y : Entry} (h : x.before y = true) : grantedBefore x y := by
  intro a b ha hb
  rw [before_strikes ha hb] at h
  omega

theorem grantedBefore_of_not_before {x y : Entry} (h : x.before y = false) : grantedBefore y x := by
  intro a b ha hb
  rw [← Bool.not_eq_true, before_strikes hb ha] at h
  omega

/-- Through a strike the order is transitive. -/
theorem grantedBefore_trans {x y z : Entry} {b : StrikeBody} (hy : y.body = .strike b) (h₁ : grantedBefore x y)
    (h₂ : grantedBefore y z) : grantedBefore x z := by
  intro a c ha hc
  have := h₁ a b ha hy
  have := h₂ b c hy hc
  omega

theorem insertGrant_perm (e : Entry) (l : List Entry) : (insertGrant e l).Perm (e :: l) := by
  induction l with
  | nil => exact .refl _
  | cons x t ih =>
    unfold insertGrant
    split
    · exact .refl _
    · exact (ih.cons x).trans (.swap e x t)

/-- Inserting a strike keeps a list of strikes in the order of R111. -/
theorem insertGrant_sorted {e : Entry} {l : List Entry} (he : ∃ b, e.body = .strike b)
    (hl : ∀ x ∈ l, ∃ b, x.body = .strike b) (h : l.Pairwise grantedBefore) : (insertGrant e l).Pairwise grantedBefore := by
  induction l with
  | nil => exact List.pairwise_singleton _ _
  | cons x t ih =>
    obtain ⟨hx, ht⟩ := List.pairwise_cons.1 h
    unfold insertGrant
    split
    · rename_i hb
      refine List.pairwise_cons.2 ⟨fun y hy => ?_, h⟩
      have first : grantedBefore e x := grantedBefore_of_before hb
      rcases List.mem_cons.1 hy with rfl | hy
      · exact first
      · obtain ⟨b, hs⟩ := hl x (List.mem_cons_self ..)
        exact grantedBefore_trans hs first (hx y hy)
    · rename_i hb
      refine List.pairwise_cons.2 ⟨fun y hy => ?_, ih (fun z hz => hl z (List.mem_cons_of_mem _ hz)) ht⟩
      rcases List.mem_cons.1 ((insertGrant_perm e t).mem_iff.1 hy) with rfl | hy
      · exact grantedBefore_of_not_before (by simpa using hb)
      · exact hx y hy

theorem foldl_insertGrant_perm (l acc : List Entry) :
    (l.foldl (fun acc e => insertGrant e acc) acc).Perm (l ++ acc) := by
  induction l generalizing acc with
  | nil => exact .refl _
  | cons e t ih => exact (ih _).trans (((insertGrant_perm e acc).append_left t).trans List.perm_middle)

theorem foldl_insertGrant_sorted {l acc : List Entry} (hl : ∀ x ∈ l, ∃ b, x.body = .strike b)
    (ha : ∀ x ∈ acc, ∃ b, x.body = .strike b) (h : acc.Pairwise grantedBefore) :
    (l.foldl (fun acc e => insertGrant e acc) acc).Pairwise grantedBefore := by
  induction l generalizing acc with
  | nil => exact h
  | cons e t ih =>
    have he := hl e (List.mem_cons_self ..)
    refine ih (fun x hx => hl x (List.mem_cons_of_mem _ hx)) (fun x hx => ?_) (insertGrant_sorted he ha h)
    rcases List.mem_cons.1 ((insertGrant_perm e acc).mem_iff.1 hx) with rfl | hx
    · exact he
    · exact ha x hx

/-! ### The order of issues -/

theorem insertDue_perm (e : Entry) (l : List Entry) : (insertDue e l).Perm (e :: l) := by
  induction l with
  | nil => exact .refl _
  | cons x t ih =>
    unfold insertDue
    split
    · exact .refl _
    · exact (ih.cons x).trans (.swap e x t)

theorem foldl_insertDue_perm (l acc : List Entry) : (l.foldl (fun acc e => insertDue e acc) acc).Perm (l ++ acc) := by
  induction l generalizing acc with
  | nil => exact .refl _
  | cons e t ih => exact (ih _).trans (((insertDue_perm e acc).append_left t).trans List.perm_middle)

theorem dueOrder_perm (l : List Entry) : (dueOrder l).Perm l := by
  simpa [dueOrder] using foldl_insertDue_perm l []

/-! ### How many entries an operation leaves -/

@[simp] theorem length_setEntry (seq : Nat) (f : Entry → Entry) (s : State) :
    (setEntry seq f s).sched.timeline.length = s.sched.timeline.length :=
  List.length_map ..

theorem length_dropEntry_le (seq : Nat) (s : State) :
    (dropEntry seq s).sched.timeline.length ≤ s.sched.timeline.length :=
  List.length_filter_le ..

/-- An entry that stands in the Timeline leaves it. -/
theorem length_dropEntry_lt {e : Entry} {s : State} (h : e ∈ s.sched.timeline) :
    (dropEntry e.seq s).sched.timeline.length < s.sched.timeline.length :=
  List.length_filter_lt_length_iff_exists.2 ⟨e, h, by simp⟩

theorem length_refreshFrom (s : State) (seen : List Lane) (l : List Entry) :
    (refreshFrom s seen l).length = l.length := by
  induction l generalizing seen with
  | nil => rfl
  | cons e t ih => exact congrArg (· + 1) (ih _)

@[simp] theorem length_refreshHeads (s : State) :
    (refreshHeads s).sched.timeline.length = s.sched.timeline.length :=
  length_refreshFrom s [] _

/-- No operation of hand-on or of an issue adds an entry. -/
theorem length_handOnEntry_le (s : State) (e : Entry) :
    (handOnEntry s e).sched.timeline.length ≤ s.sched.timeline.length := by
  unfold handOnEntry
  dsimp only
  repeat' split
  all_goals
    first
      | exact Nat.le_of_eq (length_setEntry ..)
      | exact length_dropEntry_le ..

theorem length_handOnOnce_le (s : State) : (handOnOnce s).sched.timeline.length ≤ s.sched.timeline.length := by
  have h := foldl_invariant (fun t : State => t.sched.timeline.length ≤ s.sched.timeline.length) handOnEntry
    (fun t e ht => Nat.le_trans (length_handOnEntry_le t e) ht)
    ((dueOrder (refreshHeads s).sched.timeline).filter (eligible (refreshHeads s))) (refreshHeads s)
  exact h (Nat.le_of_eq (length_refreshHeads s))

theorem length_handOnAll_le (s : State) : (handOnAll s).sched.timeline.length ≤ s.sched.timeline.length := by
  have h := length_refreshHeads (handOnOnce (handOnOnce s))
  have h1 := length_handOnOnce_le (handOnOnce s)
  have h2 := length_handOnOnce_le s
  unfold handOnAll
  omega

theorem timeline_recordRelease (k : Nat) (pos : Option Nat) (s : State) :
    (recordRelease k pos s).sched.timeline = s.sched.timeline := rfl

theorem timeline_noteFinishes (n : Nat) (s : State) : (noteFinishes n s).sched.timeline = s.sched.timeline := by
  unfold noteFinishes
  split <;> rfl

theorem timeline_issueRelease (e : Entry) (b : ReleaseBody) (s : State) :
    (issueRelease e b s).sched.timeline = (dropEntry e.seq s).sched.timeline := by
  unfold issueRelease
  dsimp only
  repeat' split
  all_goals first | rfl | exact timeline_noteFinishes ..

theorem length_issueDrop_le (e : Entry) (pd : Pedal) (s : State) :
    (issueDrop e pd s).sched.timeline.length ≤ (dropEntry e.seq s).sched.timeline.length := by
  unfold issueDrop
  dsimp only
  split
  · exact List.length_filter_le ..
  · exact Nat.le_refl _

theorem length_issueEntry_le (s : State) (e : Entry) :
    (issueEntry s e).sched.timeline.length ≤ s.sched.timeline.length := by
  unfold issueEntry
  split
  · rw [timeline_issueRelease]; exact length_dropEntry_le ..
  · exact Nat.le_trans (length_issueDrop_le ..) (length_dropEntry_le ..)
  all_goals exact Nat.le_refl _

/-- An entry that stands to issue leaves the Timeline as it issues. -/
theorem length_issueEntry_lt {s : State} {e : Entry} (h : e ∈ s.sched.timeline) (hi : e.issues = true) :
    (issueEntry s e).sched.timeline.length < s.sched.timeline.length := by
  unfold issueEntry
  split
  · rw [timeline_issueRelease]; exact length_dropEntry_lt h
  · exact Nat.lt_of_le_of_lt (length_issueDrop_le ..) (length_dropEntry_lt h)
  all_goals
    rename_i hb
    simp [Entry.issues, hb] at hi

/-- Rounds enough for the entries of the Timeline leave nothing that stands to issue. -/
theorem issueRounds_none_left (n : Nat) (s : State) (h : s.sched.timeline.length ≤ n) :
    ∀ e ∈ (issueRounds n s).sched.timeline, e.issues = false := by
  induction n generalizing s with
  | zero =>
    intro e he
    rw [show (issueRounds 0 s).sched.timeline = s.sched.timeline from rfl,
      List.length_eq_zero_iff.1 (Nat.le_zero.1 h)] at he
    exact absurd he (List.not_mem_nil)
  | succ n ih =>
    unfold issueRounds
    split
    · rename_i hd
      intro e he
      have hp := dueOrder_perm (s.sched.timeline.filter Entry.issues)
      rw [hd] at hp
      cases hi : e.issues with
      | false => rfl
      | true => exact absurd (hp.mem_iff.2 (List.mem_filter.2 ⟨he, hi⟩)) List.not_mem_nil
    · rename_i e rest hd
      have he : e ∈ s.sched.timeline.filter Entry.issues := by
        rw [← (dueOrder_perm _).mem_iff, hd]
        exact List.mem_cons_self ..
      obtain ⟨hm, hi⟩ := List.mem_filter.1 he
      have h1 := length_issueEntry_lt hm hi
      have h2 := foldl_invariant (fun t : State => t.sched.timeline.length ≤ (issueEntry s e).sched.timeline.length)
        issueEntry (fun t x ht => Nat.le_trans (length_issueEntry_le t x) ht) rest (issueEntry s e) (Nat.le_refl _)
      have h3 := length_handOnAll_le ((e :: rest).foldl issueEntry s)
      refine ih _ ?_
      rw [List.foldl_cons] at h3 ⊢
      exact Nat.le_of_lt_succ (Nat.lt_of_lt_of_le (Nat.lt_of_le_of_lt (Nat.le_trans h3 h2) h1) h)

/-! ### Key records -/

theorem keys_handOnEntry (s : State) (e : Entry) : (handOnEntry s e).sched.keys = s.sched.keys := by
  unfold handOnEntry
  dsimp only
  repeat' split
  all_goals rfl

theorem keys_handOnOnce (s : State) : (handOnOnce s).sched.keys = s.sched.keys :=
  foldl_keeps (fun t : State => t.sched.keys) handOnEntry keys_handOnEntry _ _

/-- Handing on leaves every key record. -/
@[simp] theorem keys_handOnAll (s : State) : (handOnAll s).sched.keys = s.sched.keys := by
  have h : (handOnAll s).sched.keys = (handOnOnce (handOnOnce s)).sched.keys := rfl
  rw [h, keys_handOnOnce, keys_handOnOnce]

/-- So does settling. -/
@[simp] theorem keys_settle (s : State) : (settle s).sched.keys = s.sched.keys := by
  unfold settle rederive
  dsimp only
  split
  · exact keys_handOnAll s
  · exact keys_handOnAll s

/-- What clearing makes of the key records leaves no owner. -/
theorem ownersClear_of_keysCleared {s t : State} (h : keysCleared s t) : ownersClear t := by
  intro k hk
  rw [h k hk]

end Sys2Proof.Laws
end

