-- ==== Sys2Proof/Laws/Intake.lean ====
section
/-! SUPPORT. Reading lines, the return of slots, flushing and the consumption event: what they leave alone, what they
write, and that they keep the memories and the ring in order. -/

namespace Sys2Proof.Laws

open Sys2Proof Sys2Proof.Machine

/-! ### Completing a seek and reading lines -/

@[simp] theorem outside_refreshHeads (s : State) : outside (refreshHeads s) = outside s := rfl

@[simp] theorem outside_setPedal (pd : Pedal) (f : PedalRec → PedalRec) (s : State) : outside (setPedal pd f s) = outside s := rfl

@[simp] theorem outside_addEntry (b : EntryBody) (d : Nat) (s : State) : outside (addEntry b d s) = outside s := rfl

@[simp] theorem outside_rollFromTrack (pd : Pedal) (tr : Nat) (s : State) : outside (rollFromTrack pd tr s) = outside s := rfl

@[simp] theorem outside_liftAtTarget (pd : Pedal) (t : Nat) (s : State) : outside (liftAtTarget pd t s) = outside s := by
  unfold liftAtTarget
  repeat' split
  all_goals simp

@[simp] theorem outside_catchNote (t : Nat) (s : State) (n : Nat) : outside (catchNote t s n) = outside s := by
  unfold catchNote
  split <;> simp

@[simp] theorem outside_catchTarget (t : Nat) (s : State) : outside (catchTarget t s) = outside s := by
  unfold catchTarget
  rw [outside_liftAtTarget, foldl_keeps outside (catchNote t) (outside_catchNote t), outside_liftAtTarget]

@[simp] theorem outside_leavePreroll (s : State) : outside (leavePreroll s) = outside s := by
  unfold leavePreroll
  dsimp only
  split <;> rfl

@[simp] theorem outside_completeSeek (s : State) : outside (completeSeek s) = outside s := by
  simp [completeSeek]

@[simp] theorem outside_completeEmpty (n : Nat) (s : State) : outside (completeEmpty n s) = outside s := by
  unfold completeEmpty
  dsimp only
  rw [outside_completeSeek]
  split <;> rfl

@[simp] theorem outside_startPreroll (n : Nat) (s : State) : outside (startPreroll n s) = outside s := by
  unfold startPreroll
  dsimp only
  split <;> simp

@[simp] theorem outside_readLine (s : State) (ln : Line) : outside (readLine s ln) = outside s := by
  unfold readLine
  repeat' split
  all_goals simp

@[simp] theorem outside_recordEnd (e : Nat) (s : State) : outside (recordEnd e s) = outside s := by
  unfold recordEnd
  dsimp only
  split <;> first | rfl | exact (outside_finishRoll _ _).trans rfl

@[simp] theorem outside_takeReport (b : Bool) (s : State) : outside (takeReport b s) = outside s := by
  unfold takeReport
  repeat' split
  all_goals simp

@[simp] theorem outside_handOverFirst (ls : List Line) (s : State) : outside (handOverFirst ls s) = outside s := by
  unfold handOverFirst
  repeat' split
  all_goals rfl

@[simp] theorem outside_readNext (s : State) (ln : Line) : outside (readNext s ln) = outside s := by
  unfold readNext
  split <;> simp

@[simp] theorem outside_readAll (ls : List Line) (s : State) : outside (readAll ls s) = outside s := by
  unfold readAll
  split
  · rfl
  · rw [foldl_keeps outside readNext outside_readNext, outside_readLine]

@[simp] theorem outside_readLines (ls : List Line) (b : Bool) (s : State) : outside (readLines ls b s) = outside s := by
  unfold readLines
  dsimp only
  rw [outside_meetBoundary, outside_takeReport]
  split <;> simp

@[simp] theorem outside_breakCommon (n : Nat) (s : State) : outside (breakCommon n s) = outside s := by
  have h : ∀ (n : Nat) (x : State),
      outside (raise .discontinuity
        { x with clock := { x.clock with nIn := n, discontinuities := bump16 x.clock.discontinuities } }) = outside x :=
    fun _ _ => rfl
  unfold breakCommon
  dsimp only
  rw [h]
  simp

@[simp] theorem outside_takeBreak (n : Nat) (s : State) : outside (takeBreak n s) = outside s := by
  unfold takeBreak
  dsimp only
  repeat' split
  all_goals simp

@[simp] theorem outside_addDamaged (s : State) : outside (addDamaged s) = outside s := rfl

@[simp] theorem outside_takeSeeking (slot : List Byte) (s : State) : outside (takeSeeking slot s).1 = outside s := by
  unfold takeSeeking
  dsimp only
  repeat' split
  all_goals simp

@[simp] theorem outside_takeDamaged (b : Bool) (s : State) : outside (takeDamaged b s).1 = outside s := by
  unfold takeDamaged
  dsimp only
  split
  · simp
  · rfl

@[simp] theorem outside_takeChecked (slot : List Byte) (s : State) : outside (takeChecked slot s).1 = outside s := by
  unfold takeChecked
  dsimp only
  repeat' split
  · rfl
  · simp
  · rw [outside_readLines]; rfl
  · simp

/-- Taking a slot's lines leaves the memories, the drive, the tables, the cues and the ring's attachment alone. -/
@[simp] theorem outside_takeSlot (slot : List Byte) (s : State) : outside (takeSlot slot s).1 = outside s := by
  unfold takeSlot
  repeat' split
  all_goals simp

/-! ### Returning a slot (R24) -/

/-- The status byte a return writes. -/
def returnedStatus (st : SlotStatus) (i : Nat) (s : State) : Byte :=
  statusByte st (slotWrap (slotControl s i) != decide (i + 1 = s.intake.q))

theorem returnSlot_mem (st : SlotStatus) (i : Nat) (s : State) :
    (returnSlot st i s).mem
      = (writeBytes (slotAddr s.intake i) [slotControl s i &&& 0xFE#8]
          (writeBytes (slotAddr s.intake i + 19) [returnedStatus st i s] s)).mem := rfl

/-- A return changes the record memory, the owned count and the backed-up flag alone. -/
theorem returnSlot_frame (st : SlotStatus) (i : Nat) (s : State) :
    returnSlot st i s
      = { s with
          mem := (returnSlot st i s).mem
          intake := { s.intake with owned := s.intake.owned - 1 }
          clock := { s.clock with backedUp := hysteresis s.intake.q (s.intake.owned - 1) s.clock.backedUp } } := rfl

/-- A return writes the control and the status byte of its slot alone. -/
theorem returnSlot_readByte (st : SlotStatus) (i : Nat) (s : State) (a : Nat) :
    readByte (returnSlot st i s) a
      = if a = slotAddr s.intake i then slotControl s i &&& 0xFE#8
        else if a = slotAddr s.intake i + 19 then returnedStatus st i s
        else readByte s a := by
  have e : readByte (returnSlot st i s) a
      = readByte (writeBytes (slotAddr s.intake i) [slotControl s i &&& 0xFE#8]
          (writeBytes (slotAddr s.intake i + 19) [returnedStatus st i s] s)) a := rfl
  rw [e]
  split
  · rename_i h
    subst h
    have := readByte_writeBytes_inside (writeBytes (slotAddr s.intake i + 19) [returnedStatus st i s] s)
      (slotAddr s.intake i) 0 [slotControl s i &&& 0xFE#8] (by simp)
    simpa using this
  · rename_i h1
    rw [readByte_writeBytes_outside _ _ _ _ (by simp only [List.length_singleton]; omega)]
    split
    · rename_i h2
      subst h2
      have := readByte_writeBytes_inside s (slotAddr s.intake i + 19) 0 [returnedStatus st i s] (by simp)
      simpa using this
    · rename_i h2
      exact readByte_writeBytes_outside _ _ _ _ (by simp only [List.length_singleton]; omega)

/-- A return of a slot of the ring keeps the memories in order. -/
theorem returnSlot_memoryOk (st : SlotStatus) (i : Nat) (s : State) (h : s.memoryOk)
    (hb : slotAddr s.intake i + 20 ≤ recordSize) : (returnSlot st i s).memoryOk := by
  have h1 := writeBytes_memoryOk (slotAddr s.intake i + 19) [returnedStatus st i s] s h (by simp only [List.length_singleton]; omega)
  have h2 := writeBytes_memoryOk (slotAddr s.intake i) [slotControl s i &&& 0xFE#8] _ h1 (by simp only [List.length_singleton]; omega)
  exact memoryOk_congr (returnSlot_mem st i s) rfl rfl h2

/-- The slots of a ring in order lie below the Port S capture record. -/
theorem slotAddr_bound {k : Intake} {i : Nat} (h : ringInRange k.base k.q = true) (hi : i < k.q) :
    slotAddr k i + 20 ≤ 0x0BC0 := by
  simp only [ringInRange, Bool.and_eq_true, decide_eq_true_eq] at h
  have h1 : k.base + 20 * k.q ≤ 0x0BC0 := h.2
  show k.base + 20 * i + 20 ≤ 0x0BC0
  omega

theorem nextIndex_lt {k : Intake} {i : Nat} (h : ringInRange k.base k.q = true) : nextIndex k i < k.q := by
  simp only [ringInRange, Bool.and_eq_true, decide_eq_true_eq] at h
  unfold nextIndex
  split <;> omega

/-! ### Flushing (R40, R41) -/

/-- What a flush leaves alone: all but the record memory, the intake record and the backed-up flag. -/
def offIntake (s : State) : State :=
  { s with mem := [], intake := Intake.reset, clock := { s.clock with backedUp := false } }

@[simp] theorem offIntake_returnSlot (st : SlotStatus) (i : Nat) (s : State) : offIntake (returnSlot st i s) = offIntake s := rfl

theorem flushAll_kept (n : Nat) : ∀ (i : Nat) (s : State),
    offIntake (flushAll n i s) = offIntake s
      ∧ (flushAll n i s).intake = { s.intake with owned := (flushAll n i s).intake.owned } := by
  induction n with
  | zero => intro i s; exact ⟨rfl, rfl⟩
  | succ n ih =>
    intro i s
    unfold flushAll
    dsimp only
    split
    · have h := ih (nextIndex (returnSlot .flushed i s).intake i) (returnSlot .flushed i s)
      exact ⟨h.1, h.2⟩
    · exact ih _ s

theorem flushAll_memoryOk (n : Nat) : ∀ (i : Nat) (s : State), s.memoryOk → ringInRange s.intake.base s.intake.q = true →
    i < s.intake.q → (flushAll n i s).memoryOk := by
  induction n with
  | zero => intro i s h _ _; exact h
  | succ n ih =>
    intro i s h hr hi
    unfold flushAll
    dsimp only
    split
    · exact ih _ _ (returnSlot_memoryOk .flushed i s h (by have := slotAddr_bound hr hi; simp only [recordSize]; omega)) hr
        (nextIndex_lt hr)
    · exact ih _ _ h hr (nextIndex_lt hr)

theorem flushRun_kept (n : Nat) : ∀ s : State,
    offIntake (flushRun n s) = offIntake s
      ∧ (flushRun n s).intake
          = { s.intake with owned := (flushRun n s).intake.owned, index := (flushRun n s).intake.index } := by
  induction n with
  | zero => intro s; exact ⟨rfl, rfl⟩
  | succ n ih =>
    intro s
    unfold flushRun
    dsimp only
    split
    · have h := ih { returnSlot .flushed s.intake.index s with
        intake := { (returnSlot .flushed s.intake.index s).intake with
          index := nextIndex (returnSlot .flushed s.intake.index s).intake s.intake.index } }
      exact ⟨h.1, h.2⟩
    · exact ⟨rfl, rfl⟩

theorem flushRun_ok (n : Nat) : ∀ s : State, s.memoryOk → ringInRange s.intake.base s.intake.q = true →
    s.intake.index < s.intake.q → (flushRun n s).memoryOk ∧ (flushRun n s).intake.index < (flushRun n s).intake.q := by
  induction n with
  | zero => intro s h _ hi; exact ⟨h, hi⟩
  | succ n ih =>
    intro s h hr hi
    unfold flushRun
    dsimp only
    split
    · exact ih _ (memoryOk_congr rfl rfl rfl
        (returnSlot_memoryOk .flushed s.intake.index s h (by have := slotAddr_bound hr hi; simp only [recordSize]; omega)))
        hr (nextIndex_lt hr)
    · exact ⟨h, hi⟩

/-! ### The consumption event (R29) -/

/-- The state the taken slot's lines leave, before the slot is returned. -/
def takenState (s : State) : State := (takeSlot (slotBytes s s.intake.index) s).1

/-- The status the slot at the consume index earns. -/
def takenStatus (s : State) : SlotStatus := (takeSlot (slotBytes s s.intake.index) s).2

theorem outside_takenState (s : State) : outside (takenState s) = outside s := outside_takeSlot _ s

/-- What the event leaves before its last step: the slot returned and the consume index moved. -/
def returnedState (s : State) : State :=
  let t := returnSlot (takenStatus s) s.intake.index (takenState s)
  { t with intake := { t.intake with index := nextIndex t.intake s.intake.index } }

theorem consume_settles (s : State) : consume s = settle (returnedState s) := rfl

/-- The consumption event writes the control and the status byte of the taken slot alone. -/
theorem consume_readByte (s : State) (a : Nat) :
    readByte (consume s) a
      = if a = slotAddr s.intake s.intake.index then slotControl s s.intake.index &&& 0xFE#8
        else if a = slotAddr s.intake s.intake.index + 19 then returnedStatus (takenStatus s) s.intake.index s
        else readByte s a := by
  have hout := outside_takenState s
  obtain ⟨_, hb, hq, _, _⟩ := outside_ring hout
  have hm : (takenState s).mem = s.mem := outside_mem hout
  have hmem : (consume s).mem = (returnSlot (takenStatus s) s.intake.index (takenState s)).mem := by
    rw [consume_settles, outside_mem (outside_settle (returnedState s))]
    rfl
  have e1 : readByte (consume s) a = readByte (returnSlot (takenStatus s) s.intake.index (takenState s)) a := by
    unfold readByte; rw [hmem]
  have e2 : ∀ i, slotAddr (takenState s).intake i = slotAddr s.intake i := fun i => by
    unfold slotAddr; rw [hb]
  have e3 : ∀ b, readByte (takenState s) b = readByte s b := fun b => by unfold readByte; rw [hm]
  rw [e1, returnSlot_readByte]
  unfold returnedStatus slotControl
  simp only [e2, e3, hq]

/-- The consumption event keeps the memories and the ring in order. -/
theorem consume_ok (s : State) (h : s.memoryOk) (hr : s.ringOk) (ha : s.intake.attached = true) :
    (consume s).memoryOk ∧ (consume s).ringOk := by
  obtain ⟨hring, hidx⟩ := hr ha
  have hout := outside_takenState s
  obtain ⟨_, tb, tq, _, _⟩ := outside_ring hout
  have hring' : ringInRange (takenState s).intake.base (takenState s).intake.q = true := by rw [tb, tq]; exact hring
  have hidx' : s.intake.index < (takenState s).intake.q := by rw [tq]; exact hidx
  have hb : slotAddr (takenState s).intake s.intake.index + 20 ≤ recordSize := by
    have := slotAddr_bound hring' hidx'
    simp only [recordSize]; omega
  have h1 : (returnedState s).memoryOk :=
    memoryOk_congr rfl rfl rfl (returnSlot_memoryOk (takenStatus s) s.intake.index (takenState s) (memoryOk_outside hout h) hb)
  have h2 : (returnedState s).ringOk := fun _ => ⟨hring', nextIndex_lt (k := (takenState s).intake) hring'⟩
  rw [consume_settles]
  exact ⟨memoryOk_outside (outside_settle _) h1, ringOk_outside (outside_settle _) h2⟩

end Sys2Proof.Laws
end

