-- ==== Sys2Proof/Laws/Settle.lean ====
section
/-! SUPPORT. Requests and settling: what `request` answers, what a transfer writes, and what handing on and deriving the
directive leave alone. -/

namespace Sys2Proof.Laws

open Sys2Proof Sys2Proof.Machine

/-! ### The two ports -/

@[simp] theorem get_modify_self {α : Type} (v : PerPort α) (p : Port) (f : α → α) : (v.modify p f).get p = f (v.get p) := by
  cases p <;> rfl

theorem get_modify_of_ne {α : Type} (v : PerPort α) {p q : Port} (f : α → α) (h : q ≠ p) : (v.modify p f).get q = v.get q := by
  cases p <;> cases q <;> first | rfl | exact absurd rfl h

@[simp] theorem get_modify_other {α : Type} (v : PerPort α) (p : Port) (f : α → α) :
    (v.modify p f).get p.other = v.get p.other := by
  cases p <;> rfl

@[simp] theorem get_map {α β : Type} (v : PerPort α) (p : Port) (f : α → β) : (v.map f).get p = f (v.get p) := by
  cases p <;> rfl

@[simp] theorem pedal_get_map {α β : Type} (v : PerPedal α) (pd : Pedal) (f : α → β) : (v.map f).get pd = f (v.get pd) := by
  cases pd <;> rfl

@[simp] theorem pedal_get_modify_self {α : Type} (v : PerPedal α) (pd : Pedal) (f : α → α) :
    (v.modify pd f).get pd = f (v.get pd) := by
  cases pd <;> rfl

theorem pedal_get_modify_of_ne {α : Type} (v : PerPedal α) {pd q : Pedal} (f : α → α) (h : q ≠ pd) :
    (v.modify pd f).get q = v.get q := by
  cases pd <;> cases q <;> first | rfl | exact absurd rfl h

/-! ### Requests -/

/-- The state an owner sees: the request's bytes have been gathered. -/
abbrev seen (p : Port) (i : Instr) (s : State) : State := gather p (encodeRequest i) s

/-- Outside a settings load a request's owner decides (R168, test 5). -/
theorem request_next (p : Port) (i : Instr) (owner : State → State × Response) (s : State) (h : s.takesRequests) :
    request p i owner s = .next (respond p (owner (seen p i s)).2 (owner (seen p i s)).1) := by
  have h' : (gather p (encodeRequest i) s).tables.link ≠ .loading := h
  simp only [request, if_neg h']

/-- During a settings load every request is refused (R168, test 3). -/
theorem request_loading (p : Port) (i : Instr) (owner : State → State × Response) (s : State) (h : s.tables.link = .loading) :
    request p i owner s = .next (respond p (bare .refusedBusy) (seen p i s)) := by
  have h' : (gather p (encodeRequest i) s).tables.link = .loading := h
  simp only [request, if_pos h']

@[simp] theorem answer_respond (p : Port) (r : Response) (s : State) : (respond p r s).answer p = some r := by
  cases p <;> rfl

theorem answer_respond_other (p : Port) (r : Response) (s : State) : (respond p r s).answer p.other = s.answer p.other := by
  cases p <;> rfl

@[simp] theorem answer_gather (p q : Port) (bs : List Byte) (s : State) : (gather p bs s).answer q = s.answer q := by
  cases p <;> cases q <;> rfl

@[simp] theorem transferAside_respond (p : Port) (r : Response) (s : State) :
    (respond p r s).transferAside p = s.transferAside p := by
  cases p <;> rfl

@[simp] theorem transferAside_gather (p : Port) (bs : List Byte) (s : State) :
    (gather p bs s).transferAside p = s.transferAside p := by
  cases p <;> rfl

/-- A refusal changes nothing but the answer (R170). -/
theorem request_refused (p : Port) (i : Instr) (owner : State → State × Response) (s : State) (st : Status)
    (h : s.takesRequests) (ho : owner (seen p i s) = refuse st (seen p i s)) :
    ∃ t, request p i owner s = .next t ∧ t.answer p = some ⟨st, []⟩ ∧ sameButAnswer p s t := by
  refine ⟨_, request_next p i owner s h, ?_, ?_⟩
  · rw [ho]; exact answer_respond _ _ _
  · rw [ho]; unfold sameButAnswer refuse; simp

/-! ### Settling -/

theorem settleAside_handOnEntry (s : State) (e : Entry) : (handOnEntry s e).settleAside = s.settleAside := by
  unfold handOnEntry
  cases e.body with
  | strike b => dsimp only; split <;> rfl
  | release b => rfl
  | drop pd => rfl
  | lift pd => dsimp only; split <;> cases pd <;> rfl

theorem settleAside_handOnOnce (s : State) : (handOnOnce s).settleAside = s.settleAside := by
  unfold handOnOnce
  exact (foldl_keeps State.settleAside handOnEntry settleAside_handOnEntry _ _).trans rfl

theorem settleAside_handOnAll (s : State) : (handOnAll s).settleAside = s.settleAside := by
  have h : (handOnAll s).settleAside = (handOnOnce (handOnOnce s)).settleAside := rfl
  rw [h, settleAside_handOnOnce, settleAside_handOnOnce]

theorem or_or_self (x y : BitVec 16) : x ||| y ||| y = x ||| y := by
  rw [BitVec.or_assoc, BitVec.or_self]

theorem settleAside_rederive (s : State) : (rederive s).settleAside = s.settleAside := by
  unfold rederive
  dsimp only
  split
  · rfl
  · unfold State.settleAside raise
    simp only [PerPort.map, or_or_self]

/-- What settling touches is what `settleAside` puts aside. -/
@[simp] theorem settleAside_settle (s : State) : (settle s).settleAside = s.settleAside := by
  unfold settle
  rw [settleAside_rederive, settleAside_handOnAll]

theorem settleAside_transferAside (p : Port) (s : State) : (s.transferAside p).settleAside = s.settleAside.transferAside p := by
  cases p <;> rfl

theorem playAside_transferAside (p : Port) (s : State) : (s.transferAside p).playAside = s.playAside.transferAside p := by
  cases p <;> rfl

/-- Everything settling leaves, play leaves. -/
theorem playAside_of_settleAside {s t : State} (h : t.settleAside = s.settleAside) : t.playAside = s.playAside := by
  have e : ∀ x : State, x.playAside = x.settleAside.playAside := fun _ => rfl
  rw [e t, e s, h]

@[simp] theorem playAside_settle (s : State) : (settle s).playAside = s.playAside :=
  playAside_of_settleAside (settleAside_settle s)

/-- The frame of a request whose owner settles. -/
theorem sameButSettledAnswer_of (p : Port) (bs : List Byte) (r : Response) (s t u : State)
    (h : t.settleAside = u.settleAside) (hu : u.transferAside p = (gather p bs s).transferAside p) :
    sameButSettledAnswer p s (respond p r t) := by
  unfold sameButSettledAnswer
  rw [transferAside_respond, settleAside_transferAside, h, ← settleAside_transferAside, hu, transferAside_gather]

/-! ### The directive (R21) -/

/-- After settling the directive is as R20 derives it. -/
theorem directiveOk_rederive (s : State) : (rederive s).directiveOk := by
  unfold rederive
  dsimp only
  split
  · rename_i h; exact h
  · exact ⟨rfl, rfl, rfl⟩

theorem directiveOk_settle (s : State) : (settle s).directiveOk := directiveOk_rederive _

/-- Deriving the directive again changes the directive and DIRECTIVE attention alone. -/
theorem rederive_clock (s : State) : (rederive s).clock = { s.clock with directive := (rederive s).clock.directive } := by
  unfold rederive
  dsimp only
  split <;> rfl

theorem rederive_of_directiveOk (s : State) (h : s.directiveOk) : rederive s = s := by
  unfold rederive
  dsimp only
  exact if_pos h

/-- A directive that changes has the next sequence number and is attended. -/
theorem rederive_changed (s : State) :
    rederive s = s
      ∨ (rederive s).clock.directive.seq = s.clock.directive.seq + 1 ∧ attended .directive (rederive s) := by
  unfold rederive
  dsimp only
  split
  · exact Or.inl rfl
  · refine Or.inr ⟨rfl, fun p => ?_⟩
    have absorb (x d : BitVec 16) : (x ||| d) &&& d = d := by
      ext i hi
      simp only [BitVec.getElem_and, BitVec.getElem_or]
      cases x[i] <;> cases d[i] <;> rfl
    cases p <;> exact absorb _ _

end Sys2Proof.Laws
end

