-- ==== Sys2Proof/Laws/Roll.lean ====
section
/-! SUPPORT. Clearing, resting, stopping, seeking and the boundaries of play: what each leaves. -/

namespace Sys2Proof.Laws

open Sys2Proof Sys2Proof.Machine

/-! ### Handing on where nothing can be handed on -/

theorem refreshHeads_of_empty (s : State) (h : s.sched.timeline = []) : refreshHeads s = s := by
  have e : refreshHeads s = { s with sched := { s.sched with timeline := refreshFrom s [] s.sched.timeline } } := rfl
  have r : refreshFrom s [] s.sched.timeline = s.sched.timeline := by rw [h]; rfl
  rw [e, r]

theorem handOnOnce_of_empty (s : State) (h : s.sched.timeline = []) : handOnOnce s = s := by
  have e : handOnOnce s
      = ((dueOrder (refreshHeads s).sched.timeline).filter (eligible (refreshHeads s))).foldl handOnEntry (refreshHeads s) := rfl
  rw [e, refreshHeads_of_empty s h, h]
  rfl

/-- With an empty Timeline nothing is handed on. -/
theorem handOnAll_of_empty (s : State) (h : s.sched.timeline = []) : handOnAll s = s := by
  unfold handOnAll
  rw [handOnOnce_of_empty s h, handOnOnce_of_empty s h, refreshHeads_of_empty s h]

theorem settle_of_empty (s : State) (h : s.sched.timeline = []) : settle s = rederive s := by
  unfold settle; rw [handOnAll_of_empty s h]

theorem eligible_of_noHands (s : State) (e : Entry) (h : s.clock.state.hands = false) : eligible s e = false := by
  unfold eligible; rw [h]; simp

theorem handOnOnce_of_noHands (s : State) (h : s.clock.state.hands = false) : handOnOnce s = refreshHeads s := by
  have e : handOnOnce s
      = ((dueOrder (refreshHeads s).sched.timeline).filter (eligible (refreshHeads s))).foldl handOnEntry (refreshHeads s) := rfl
  have hn : (refreshHeads s).clock.state.hands = false := h
  have hf : (dueOrder (refreshHeads s).sched.timeline).filter (eligible (refreshHeads s)) = [] :=
    List.filter_eq_nil_iff.2 fun x _ => by rw [eligible_of_noHands _ x hn]; simp
  rw [e, hf]
  rfl

/-- Where entries are not handed on (R96), settling changes entries' states and release positions alone. -/
theorem handOnAll_of_noHands (s : State) (h : s.clock.state.hands = false) :
    handOnAll s = { s with sched := { s.sched with timeline := (handOnAll s).sched.timeline } } := by
  have hn : (refreshHeads s).clock.state.hands = false := h
  unfold handOnAll
  rw [handOnOnce_of_noHands s h, handOnOnce_of_noHands _ hn]
  rfl

theorem refreshFrom_map {α : Type} (f : Entry → α) (hf : ∀ (e : Entry) (st : EntryState) (x : Nat), f { e with state := st, releasePos := x } = f e)
    (s : State) : ∀ (l : List Entry) (seen : List Lane), (refreshFrom s seen l).map f = l.map f := by
  intro l
  induction l with
  | nil => intro seen; rfl
  | cons e t ih =>
    intro seen
    simp only [refreshFrom, List.map_cons]
    rw [ih]
    split
    · rw [hf]
    · rfl

/-- Refreshing keeps what an entry carries, its due position and its number. -/
theorem refreshHeads_map {α : Type} (f : Entry → α)
    (hf : ∀ (e : Entry) (st : EntryState) (x : Nat), f { e with state := st, releasePos := x } = f e) (s : State) :
    (refreshHeads s).sched.timeline.map f = s.sched.timeline.map f := refreshFrom_map f hf s _ _

/-! ### What handing on and the directive keep -/

theorem handOnAll_clock (s : State) : (handOnAll s).clock = s.clock := by
  have := congrArg State.clock (offSchedule_handOnAll s); exact this

/-- Settling changes the directive of the Roll Clock alone. -/
theorem settle_clock (s : State) : (settle s).clock = { s.clock with directive := (settle s).clock.directive } := by
  have h := rederive_clock (handOnAll s)
  rw [handOnAll_clock] at h
  exact h

theorem settle_mem (s : State) : (settle s).mem = s.mem := outside_mem (outside_settle s)

theorem settle_drive (s : State) : (settle s).drive = s.drive := outside_drive (outside_settle s)

theorem settle_cues (s : State) : (settle s).cues = s.cues := outside_cues (outside_settle s)

theorem rederive_sched (s : State) : (rederive s).sched = s.sched := by
  unfold rederive; dsimp only; split <;> rfl

theorem rederive_pedals (s : State) : (rederive s).pedals = s.pedals := by
  unfold rederive; dsimp only; split <;> rfl

theorem rederive_ports (s : State) (q : Port) :
    (rederive s).ports.get q = { s.ports.get q with pending := ((rederive s).ports.get q).pending } := by
  unfold rederive; dsimp only; split
  · rfl
  · cases q <;> rfl

/-- The pieces that neither handing on nor the directive touches. -/
theorem rest_of_settleAside {s t : State} (h : t.settleAside = s.settleAside) :
    t.seek = s.seek ∧ t.timing = s.timing ∧ t.intake = s.intake ∧ t.reading = s.reading ∧ t.expr = s.expr
      ∧ t.check = s.check ∧ t.test = s.test ∧ t.tables = s.tables ∧ t.settings = s.settings
      ∧ t.freeDraws = s.freeDraws ∧ t.pending = s.pending := by
  have h1 := congrArg State.seek h
  have h2 := congrArg State.timing h
  have h3 := congrArg State.intake h
  have h4 := congrArg State.reading h
  have h5 := congrArg State.expr h
  have h6 := congrArg State.check h
  have h7 := congrArg State.test h
  have h8 := congrArg State.tables h
  have h9 := congrArg State.settings h
  have h10 := congrArg State.freeDraws h
  have h11 := congrArg State.pending h
  exact ⟨h1, h2, h3, h4, h5, h6, h7, h8, h9, h10, h11⟩

theorem settleAside_of_settle (s : State) : (settle s).settleAside = s.settleAside :=
  (settleAside_rederive (handOnAll s)).trans (settleAside_handOnAll s)

/-! ### Clearing and resting -/

theorem vget_vtab {α : Type} (n i : Nat) (x d : α) (h : d = x) : vget (vtab n fun _ => x) i d = x := by
  subst h
  unfold vget vtab
  simp only [Vector.toList]
  rw [List.getD_eq_getElem?_getD]
  rcases hx : ((List.range n).map fun _ => d)[i]? with _ | y
  · rfl
  · have := List.mem_of_getElem? hx
    simp at this
    simp [this.2]

/-- A property that every record of a mapped table has, and the record past its end. -/
theorem vget_vmap_of {α β : Type} {n : Nat} (f : α → β) (v : Vector α n) (i : Nat) (d : β) (q : β → Prop)
    (hf : ∀ a, q (f a)) (hd : q d) : q (vget (vmap f v) i d) := by
  unfold vget vmap
  simp only [Vector.toList]
  rw [List.getD_eq_getElem?_getD]
  rcases hx : (v.toArray.toList.map f)[i]? with _ | y
  · exact hd
  · obtain ⟨a, _, rfl⟩ := List.mem_map.1 (List.mem_of_getElem? hx)
    exact hf a

theorem scheduleClear_of (s : State) (ht : s.sched.timeline = []) (hq : s.sched.nextSeq = 0)
    (htr : s.sched.tracks = vtab 88 fun _ => TrackRec.silent) : scheduleClear s := by
  refine ⟨ht, hq, fun n _ => ?_⟩
  unfold track
  rw [htr]
  exact vget_vtab _ _ _ _ rfl

theorem withdrawTest_sched (s : State) : (withdrawTest s).sched = s.sched := by
  unfold withdrawTest; split <;> rfl

/-- R103, R104: the Timeline is empty, every track SILENT and the creation sequence restarts. -/
theorem scheduleClear_emptyTimeline (s : State) : scheduleClear (emptyTimeline s) := by
  apply scheduleClear_of <;> (unfold emptyTimeline; rw [withdrawTest_sched])

theorem ownersClear_of_keys (s : State) (f : KeyRec → KeyRec) (keys : Vector KeyRec 88) (h : s.sched.keys = vmap f keys)
    (hf : ∀ r, (f r).owners = 0) : ownersClear s := by
  intro k hk
  unfold keyRec
  rw [h]
  exact vget_vmap_of f keys k KeyRec.reset (fun r => r.owners = 0) hf rfl

theorem ownersClear_emptyTimeline (s : State) : ownersClear (emptyTimeline s) := by
  apply ownersClear_of_keys _ KeyRec.cleared s.sched.keys
  · unfold emptyTimeline; rw [withdrawTest_sched]
  · intro r; rfl

theorem scheduleClear_clearSchedule (s : State) : scheduleClear (clearSchedule s) := by
  have h := scheduleClear_emptyTimeline s
  exact ⟨h.1, h.2.1, h.2.2⟩

/-- R135: the pedals are at REST, each keeping its roll state and override, and no request of its own stands. -/
theorem restPedals_get (s : State) (pd : Pedal) :
    (restPedals s).pedals.get pd
      = { s.pedals.get pd with state := .rest, duty := 0, countdown := 0, stepped := false, ownRequest := false } := by
  cases pd <;> rfl

theorem pedalsRest_restPedals (s : State) : pedalsRest (restPedals s) := fun pd => by
  rw [restPedals_get]; exact ⟨rfl, rfl⟩

theorem rollStatesUp_get (s : State) (pd : Pedal) :
    (rollStatesUp s).pedals.get pd = { s.pedals.get pd with roll := .up } := by
  cases pd <;> rfl

/-! ### The boundaries of play -/

/-- R13. -/
theorem starve_clock (s : State) :
    (starve s).clock
      = { s.clock with p := s.clock.nIn * 256, state := .starved, c := 0, starvations := bump16 s.clock.starvations } := rfl

/-- R18. -/
theorem finishRoll_clock (e : Nat) (s : State) :
    (finishRoll e s).clock = { (emptyTimeline s).clock with p := e * 256, state := .ended } := rfl

theorem withdrawTest_clock (s : State) : (withdrawTest s).clock = s.clock := by
  unfold withdrawTest; split <;> rfl

theorem emptyTimeline_clock (s : State) : (emptyTimeline s).clock = s.clock := by
  unfold emptyTimeline; rw [withdrawTest_clock]

theorem clearSchedule_clock (s : State) : (clearSchedule s).clock = s.clock := emptyTimeline_clock s

/-- R18, R104, R135: the roll's end clears the schedule and rests the pedals. -/
theorem finishRoll_clears (e : Nat) (s : State) :
    scheduleClear (finishRoll e s) ∧ pedalsRest (finishRoll e s) := by
  refine ⟨?_, fun pd => ?_⟩
  · have h := scheduleClear_emptyTimeline s
    exact ⟨by show List.filter _ (List.filter _ (emptyTimeline s).sched.timeline) = []; rw [h.1]; rfl, h.2.1, h.2.2⟩
  · cases pd <;> exact ⟨rfl, rfl⟩

/-- P does not pass N_in·256 where a boundary is met (R8), when it has not passed it before. -/
theorem meetBoundary_position (s : State) (h : s.clock.p ≤ s.clock.nIn * 256) :
    (meetBoundary s).clock.p ≤ (meetBoundary s).clock.nIn * 256 ∧ (meetBoundary s).clock.nIn = s.clock.nIn := by
  unfold meetBoundary
  split
  · split
    · split
      · rw [finishRoll_clock, emptyTimeline_clock]
        exact ⟨by dsimp only; omega, rfl⟩
      · split
        · exact ⟨Nat.le_refl _, rfl⟩
        · exact ⟨h, rfl⟩
    · split
      · exact ⟨Nat.le_refl _, rfl⟩
      · exact ⟨h, rfl⟩
  · exact ⟨h, rfl⟩

theorem restPedals_clock (s : State) : (restPedals s).clock = s.clock := rfl

/-- A flush changes the backed-up flag of the Roll Clock alone. -/
theorem clock_of_offIntake {s t : State} (h : offIntake t = offIntake s) :
    t.clock = { s.clock with backedUp := t.clock.backedUp } := by
  have k : { t.clock with backedUp := false } = { s.clock with backedUp := false } := by
    have := congrArg State.clock h; exact this
  have e : t.clock = { ({ t.clock with backedUp := false } : RollClock) with backedUp := t.clock.backedUp } := rfl
  rw [e, k]

/-- What STOP has done before it returns the ring's slots and clears the Roll Clock (R103, R129, R135). -/
def stopCleared (s : State) : State := rollStatesUp (restPedals (clearSchedule s))

theorem stopCleared_clock (s : State) : (stopCleared s).clock = s.clock := by
  unfold stopCleared
  rw [rollStatesUp_clock, restPedals_clock, clearSchedule_clock]

/-- R10: the Roll Clock after STOP. -/
theorem stopRoll_clock (s : State) :
    (stopRoll s).clock
      = { s.clock with
          state := .empty, p := 0, nIn := 0, c := 0, lineHeld := false, signatureTaken := false, autoPlay := false
          endLine := none, backedUp := (stopRoll s).clock.backedUp } := by
  have e : stopRoll s =
      (let x := stopCleared s
       let x := if x.intake.attached then
          let x := setOwned 0 (flushAll x.intake.q x.intake.index x)
          { x with intake := { x.intake with index := 0, endStop := false, state := .running } }
        else x
       let x := setP 0 x
       { x with clock := { x.clock with
           state := .empty, nIn := 0, c := 0, lineHeld := false, signatureTaken := false, autoPlay := false, endLine := none } }) := rfl
  have hc := stopCleared_clock s
  rw [e]
  generalize stopCleared s = x at hc ⊢
  dsimp only
  split
  · have h := clock_of_offIntake (flushAll_kept x.intake.q x.intake.index x).1
    rw [hc] at h
    generalize flushAll x.intake.q x.intake.index x = y at h ⊢
    show ({ y.clock with backedUp := _, p := 0, state := .empty, nIn := 0, c := 0, lineHeld := false
                         signatureTaken := false, autoPlay := false, endLine := none } : RollClock) = _
    rw [h]
  · show ({ x.clock with p := 0, state := .empty, nIn := 0, c := 0, lineHeld := false
                         signatureTaken := false, autoPlay := false, endLine := none } : RollClock) = _
    have hb : (setP 0 x).clock.backedUp = s.clock.backedUp := by
      have := congrArg RollClock.backedUp hc; exact this
    rw [hb, hc]

/-! ### Seeks (R145) -/

/-- Whether the auto-play flag is held over from the roll state a seek finds (R145). -/
def heldAutoPlay (k : RollClock) : Bool :=
  match k.state with
  | .playing | .starved => true
  | .seeking | .preroll => k.autoPlay
  | .empty | .leader | .ready | .paused | .stepping | .ended => false

/-- What a seek has done before it returns the run of owned slots. -/
def seekTaken (target : Nat) (auto : Bool) (s : State) : State :=
  let x := endTest (restPedals (clearSchedule s))
  { x with
    clock := { x.clock with state := .seeking, autoPlay := heldAutoPlay s.clock || auto, endLine := none }
    seek := { x.seek with target := max 64 target, start := max 64 (max 64 target - x.seek.prime) } }

theorem takeSeek_eq (target : Nat) (auto : Bool) (s : State) :
    takeSeek target auto s
      = (let y := seekTaken target auto s
         let y := if y.intake.attached then flushRun y.intake.q y else y
         { y with intake := { y.intake with endStop := false } }) := rfl

theorem seekTaken_clock (target : Nat) (auto : Bool) (s : State) :
    (seekTaken target auto s).clock
      = { s.clock with state := .seeking, autoPlay := heldAutoPlay s.clock || auto, endLine := none } := by
  have e : (seekTaken target auto s).clock
      = { (clearSchedule s).clock with state := .seeking, autoPlay := heldAutoPlay s.clock || auto, endLine := none } := rfl
  rw [e, clearSchedule_clock]

theorem seekTaken_seek (target : Nat) (auto : Bool) (s : State) :
    (seekTaken target auto s).seek
      = { s.seek with target := max 64 target, start := max 64 (max 64 target - s.seek.prime) } := by
  have e : (seekTaken target auto s).seek
      = { (clearSchedule s).seek with
          target := max 64 target, start := max 64 (max 64 target - (clearSchedule s).seek.prime) } := rfl
  have h : (clearSchedule s).seek = s.seek := by
    have := congrArg State.seek (offSchedule_clearSchedule s); exact this
  rw [e, h]

/-- Returning the run of owned slots changes the record memory, the ring's figures and the backed-up flag alone. -/
theorem offIntake_takeSeek (target : Nat) (auto : Bool) (s : State) :
    offIntake (takeSeek target auto s) = offIntake (seekTaken target auto s) := by
  rw [takeSeek_eq]
  generalize seekTaken target auto s = y
  have e : ∀ z : State, offIntake { z with intake := { z.intake with endStop := false } } = offIntake z := fun _ => rfl
  dsimp only
  rw [e]
  split
  · exact (flushRun_kept y.intake.q y).1
  · rfl

/-- The Roll Clock after a seek is taken. -/
theorem takeSeek_clock (target : Nat) (auto : Bool) (s : State) :
    (takeSeek target auto s).clock
      = { s.clock with
          state := .seeking, autoPlay := heldAutoPlay s.clock || auto, endLine := none
          backedUp := (takeSeek target auto s).clock.backedUp } := by
  have h := clock_of_offIntake (offIntake_takeSeek target auto s)
  rw [seekTaken_clock] at h
  exact h

/-- The seek record after a seek is taken. -/
theorem takeSeek_seek (target : Nat) (auto : Bool) (s : State) :
    (takeSeek target auto s).seek
      = { s.seek with target := max 64 target, start := max 64 (max 64 target - s.seek.prime) } := by
  have h : (takeSeek target auto s).seek = (seekTaken target auto s).seek := by
    have := congrArg State.seek (offIntake_takeSeek target auto s); exact this
  rw [h, seekTaken_seek]

/-- A seek clears the schedule and rests the pedals (R103, R135). -/
theorem takeSeek_clears (target : Nat) (auto : Bool) (s : State) :
    scheduleClear (takeSeek target auto s) ∧ pedalsRest (takeSeek target auto s) := by
  have hs : (takeSeek target auto s).sched = (seekTaken target auto s).sched := by
    have := congrArg State.sched (offIntake_takeSeek target auto s); exact this
  have hp : (takeSeek target auto s).pedals = (seekTaken target auto s).pedals := by
    have := congrArg State.pedals (offIntake_takeSeek target auto s); exact this
  have h := scheduleClear_clearSchedule s
  have e : (seekTaken target auto s).sched = (restPedals (clearSchedule s)).sched := rfl
  have hsched : (takeSeek target auto s).sched
      = { (clearSchedule s).sched with timeline := (restPedals (clearSchedule s)).sched.timeline } := hs.trans (e.trans rfl)
  have htl : (restPedals (clearSchedule s)).sched.timeline = [] := by
    show List.filter _ (List.filter _ (clearSchedule s).sched.timeline) = []
    rw [h.1]; rfl
  rw [htl] at hsched
  refine ⟨⟨by rw [hsched], by rw [hsched]; exact h.2.1, fun n hn => ?_⟩, fun pd => ?_⟩
  · have := h.2.2 n hn
    unfold track at this ⊢
    rw [hsched]
    exact this
  · rw [hp]
    cases pd <;> exact ⟨rfl, rfl⟩

/-! ### Slots returned by a flush (R40, R41) -/

theorem flushAll_succ (n i : Nat) (s : State) :
    flushAll (n + 1) i s
      = flushAll n (nextIndex s.intake i) (if slotOwn (slotControl s i) then returnSlot .flushed i s else s) := by
  have e : flushAll (n + 1) i s
      = (let x := if slotOwn (slotControl s i) then returnSlot .flushed i s else s
         flushAll n (nextIndex x.intake i) x) := rfl
  rw [e]
  dsimp only
  split <;> rfl

/-- Slot `j` is among the `n` slots looked at from slot `i` on. -/
def lookedAt (q n i j : Nat) : Prop := ∃ m, m < n ∧ j = (i + m) % q

theorem lookedAt_succ {q n i j : Nat} (hi : i < q) (h : lookedAt q (n + 1) i j) :
    j = i ∨ lookedAt q n (if i + 1 < q then i + 1 else 0) j := by
  obtain ⟨m, hm, rfl⟩ := h
  rcases m with _ | m
  · exact Or.inl (by rw [Nat.add_zero, Nat.mod_eq_of_lt hi])
  · refine Or.inr ⟨m, by omega, ?_⟩
    split
    · congr 1; omega
    · have : i + (m + 1) = m + q := by omega
      rw [this, Nat.add_mod_right, Nat.zero_add]

theorem not_lookedAt_self {q n i : Nat} (hi : i < q) (hn : n + 1 ≤ q) :
    ¬lookedAt q n (if i + 1 < q then i + 1 else 0) i := by
  rintro ⟨m, hm, h⟩
  split at h
  · by_cases hw : i + 1 + m < q
    · rw [Nat.mod_eq_of_lt hw] at h; omega
    · have : i + 1 + m = (i + 1 + m - q) + q := by omega
      rw [this, Nat.add_mod_right, Nat.mod_eq_of_lt (by omega)] at h
      omega
  · rw [Nat.zero_add, Nat.mod_eq_of_lt (by omega)] at h
    omega

theorem lookedAt_all {q i j : Nat} (hi : i < q) (hj : j < q) : lookedAt q q i j := by
  by_cases h : i ≤ j
  · exact ⟨j - i, by omega, by rw [Nat.mod_eq_of_lt (by omega)]; omega⟩
  · refine ⟨j + q - i, by omega, ?_⟩
    have : i + (j + q - i) = j + q := by omega
    rw [this, Nat.add_mod_right, Nat.mod_eq_of_lt hj]

/-- A return of slot `i` leaves the bytes of every other slot. -/
theorem returnSlot_otherSlot (st : SlotStatus) (i j : Nat) (s : State) (h : j ≠ i) :
    slotControl (returnSlot st i s) j = slotControl s j
      ∧ readByte (returnSlot st i s) (slotAddr s.intake j + 19) = readByte s (slotAddr s.intake j + 19) := by
  have e : slotControl (returnSlot st i s) j = readByte (returnSlot st i s) (slotAddr s.intake j) := rfl
  rw [e, returnSlot_readByte, returnSlot_readByte]
  unfold slotAddr slotLength
  refine ⟨?_, ?_⟩
  · rw [if_neg (by omega), if_neg (by omega)]; rfl
  · rw [if_neg (by omega), if_neg (by omega)]

/-- A flush returns FLUSHED every owned slot it looks at, and changes no other byte. -/
theorem flushAll_reads (n : Nat) : ∀ (i : Nat) (s : State), i < s.intake.q → n ≤ s.intake.q →
    (∀ j, j < s.intake.q → lookedAt s.intake.q n i j → slotOwn (slotControl s j) = true →
        slotControl (flushAll n i s) j = slotControl s j &&& 0xFE#8
          ∧ readByte (flushAll n i s) (slotAddr s.intake j + 19) = returnedStatus .flushed j s)
      ∧ ∀ a, (∀ j, j < s.intake.q → lookedAt s.intake.q n i j → slotOwn (slotControl s j) = true →
            a ≠ slotAddr s.intake j ∧ a ≠ slotAddr s.intake j + 19) →
          readByte (flushAll n i s) a = readByte s a := by
  induction n with
  | zero => intro i s _ _; exact ⟨fun j _ ⟨m, hm, _⟩ => absurd hm (Nat.not_lt_zero m), fun a _ => rfl⟩
  | succ n ih =>
    intro i s hi hn
    rw [flushAll_succ]
    have hnext : nextIndex s.intake i = if i + 1 < s.intake.q then i + 1 else 0 := rfl
    have hlt : nextIndex s.intake i < s.intake.q := by rw [hnext]; split <;> omega
    by_cases ho : slotOwn (slotControl s i) = true
    · rw [if_pos ho]
      obtain ⟨h1, h2⟩ := ih (nextIndex s.intake i) (returnSlot .flushed i s) hlt (by show n ≤ s.intake.q; omega)
      have hself := returnSlot_readByte .flushed i s
      have hfix : ∀ a, (a = slotAddr s.intake i ∨ a = slotAddr s.intake i + 19) →
          readByte (flushAll n (nextIndex s.intake i) (returnSlot .flushed i s)) a = readByte (returnSlot .flushed i s) a := by
        intro a ha
        refine h2 a fun j hj hl _ => ?_
        have hne : j ≠ i := by
          rintro rfl
          exact not_lookedAt_self hi hn (by rw [← hnext]; exact hl)
        show a ≠ slotAddr s.intake j ∧ a ≠ slotAddr s.intake j + 19
        unfold slotAddr slotLength at ha ⊢
        omega
      refine ⟨fun j hj hl hown => ?_, fun a ha => ?_⟩
      · by_cases hji : j = i
        · subst hji
          have e : slotControl (flushAll n (nextIndex s.intake j) (returnSlot .flushed j s)) j
              = readByte (flushAll n (nextIndex s.intake j) (returnSlot .flushed j s)) (slotAddr s.intake j) := by
            have hr := (flushAll_kept n (nextIndex s.intake j) (returnSlot .flushed j s)).2
            have hb : (flushAll n (nextIndex s.intake j) (returnSlot .flushed j s)).intake.base = s.intake.base := by
              have := congrArg Intake.base hr; exact this
            unfold slotControl slotAddr
            rw [hb]
          rw [e, hfix _ (Or.inl rfl), hfix _ (Or.inr rfl), hself, hself, if_pos rfl, if_neg (by omega), if_pos rfl]
          exact ⟨rfl, rfl⟩
        · have hl' : lookedAt s.intake.q n (nextIndex s.intake i) j := by
            rcases lookedAt_succ hi hl with h | h
            · exact absurd h hji
            · rw [hnext]; exact h
          obtain ⟨hc, _⟩ := returnSlot_otherSlot .flushed i j s hji
          have hp := h1 j hj hl' (by rw [hc]; exact hown)
          rw [hc] at hp
          refine ⟨hp.1, hp.2.trans ?_⟩
          unfold returnedStatus
          rw [hc]
          rfl
      · have hai := ha i hi ⟨0, by omega, by rw [Nat.add_zero, Nat.mod_eq_of_lt hi]⟩ ho
        have hrest : readByte (flushAll n (nextIndex s.intake i) (returnSlot .flushed i s)) a
            = readByte (returnSlot .flushed i s) a := by
          refine h2 a fun j hj hl hown => ?_
          have hji : j ≠ i := by
            rintro rfl
            exact not_lookedAt_self hi hn (by rw [← hnext]; exact hl)
          refine ha j hj ?_ ?_
          · obtain ⟨m, hm, hjm⟩ := hl
            refine ⟨m + 1, by omega, ?_⟩
            rw [hnext] at hjm
            split at hjm
            · rw [hjm]; congr 1; omega
            · have : i + (m + 1) = m + s.intake.q := by omega
              rw [this, Nat.add_mod_right]
              rw [hjm]
              show (0 + m) % s.intake.q = m % s.intake.q
              rw [Nat.zero_add]
          · rw [← (returnSlot_otherSlot .flushed i j s hji).1]; exact hown
        rw [hrest, hself, if_neg hai.1, if_neg hai.2]
    · rw [if_neg ho]
      obtain ⟨h1, h2⟩ := ih (nextIndex s.intake i) s hlt (by omega)
      refine ⟨fun j hj hl hown => ?_, fun a ha => ?_⟩
      · rcases lookedAt_succ hi hl with h | h
        · subst h; exact absurd hown ho
        · exact h1 j hj (by rw [hnext]; exact h) hown
      · refine h2 a fun j hj hl hown => ha j hj ?_ hown
        obtain ⟨m, hm, hjm⟩ := hl
        refine ⟨m + 1, by omega, ?_⟩
        rw [hnext] at hjm
        split at hjm
        · rw [hjm]; congr 1; omega
        · have : i + (m + 1) = m + s.intake.q := by omega
          rw [this, Nat.add_mod_right, hjm, Nat.zero_add]

/-- R40: a flush of the whole ring. -/
theorem flushAll_ring (i : Nat) (s : State) (hi : i < s.intake.q) :
    (∀ j, j < s.intake.q → slotOwn (slotControl s j) = true →
        slotControl (flushAll s.intake.q i s) j = slotControl s j &&& 0xFE#8
          ∧ readByte (flushAll s.intake.q i s) (slotAddr s.intake j + 19) = returnedStatus .flushed j s)
      ∧ ∀ a, (∀ j, j < s.intake.q → slotOwn (slotControl s j) = true →
            a ≠ slotAddr s.intake j ∧ a ≠ slotAddr s.intake j + 19) →
          readByte (flushAll s.intake.q i s) a = readByte s a := by
  obtain ⟨h1, h2⟩ := flushAll_reads s.intake.q i s hi (Nat.le_refl _)
  exact ⟨fun j hj => h1 j hj (lookedAt_all hi hj), fun a ha => h2 a fun j hj _ => ha j hj⟩

end Sys2Proof.Laws
end

