-- ==== Sys2Proof/Laws/Movement.lean ====
section
/-! SUPPORT. The movement of P and the frame build: what the operations that fire cues, reach a position, read lines in
turn or issue in rounds can do, said once for any property that their parts keep. -/

namespace Sys2Proof.Laws

open Sys2Proof Sys2Proof.Machine

/-- A property that every step of a fold keeps. -/
theorem foldl_inv {α β : Type} (P : β → Prop) (f : β → α → β) (h : ∀ s a, P s → P (f s a)) :
    ∀ (l : List α) (s : β), P s → P (l.foldl f s) := by
  intro l
  induction l with
  | nil => intro s hs; exact hs
  | cons a t ih => intro s hs; exact ih _ (h s a hs)

/-! ### Cues (R140 to R142) -/

theorem mem_insertCue (lineOf : Nat → Nat) (i j : Nat) : ∀ l : List Nat, j ∈ insertCue lineOf i l ↔ j = i ∨ j ∈ l := by
  intro l
  induction l with
  | nil => simp [insertCue]
  | cons a t ih =>
    unfold insertCue
    split
    · simp
    · simp only [List.mem_cons, ih]
      tauto

/-- A cue that is crossed is one of the 32. -/
theorem crossings_lt (s : State) (p0 p1 i : Nat) (h : i ∈ crossings s p0 p1) : i < 32 := by
  have key : ∀ (l acc : List Nat), (∀ j ∈ l, j < 32) → (∀ j ∈ acc, j < 32) →
      ∀ j ∈ l.foldl (fun acc i => insertCue (fun j => (cueAt s j).line) i acc) acc, j < 32 := by
    intro l
    induction l with
    | nil => intro acc _ ha; exact ha
    | cons a t ih =>
      intro acc hl ha
      refine ih _ (fun j hj => hl j (List.mem_cons_of_mem _ hj)) fun j hj => ?_
      rcases (mem_insertCue _ _ _ _).1 hj with rfl | hj
      · exact hl j List.mem_cons_self
      · exact ha j hj
  exact key _ [] (fun j hj => List.mem_range.1 (List.mem_of_mem_filter hj)) (fun j hj => absurd hj List.not_mem_nil) i h

/-- What a cue that fires records, before its action (R142). -/
def cueRecorded (i : Nat) (s : State) : State :=
  raise .cue (mirrorHits i (bump16 (cueAt s i).hits)
    { s with
      cues :=
        { s.cues with
          last := some i
          live := vmodify s.cues.live i fun q =>
            { q with hits := bump16 (cueAt s i).hits, armed := q.armed && !q.once } } })

/-- R142: a cue records its firing, and then nothing more, or play is paused, or a seek is taken. -/
theorem fireCue_cases (i : Nat) (s : State) :
    fireCue i s = cueRecorded i s
      ∨ ((cueAt s i).action = .stop ∧ s.clock.state.hands = true ∧ fireCue i s = pauseRoll (cueRecorded i s))
      ∨ ((cueAt s i).action = .loop ∧ s.clock.state.refusesSeek = false
          ∧ fireCue i s = takeSeek (cueAt s i).target true (cueRecorded i s)) := by
  have e : fireCue i s
      = (match (cueAt s i).action with
        | .none | .notice => cueRecorded i s
        | .stop => if s.clock.state.hands then pauseRoll (cueRecorded i s) else cueRecorded i s
        | .loop => if s.clock.state.refusesSeek then cueRecorded i s
            else takeSeek (cueAt s i).target true (cueRecorded i s)) := rfl
  rw [e]
  cases (cueAt s i).action with
  | none => exact Or.inl rfl
  | notice => exact Or.inl rfl
  | stop =>
    by_cases h : s.clock.state.hands = true
    · exact Or.inr (Or.inl ⟨rfl, h, if_pos h⟩)
    · exact Or.inl (if_neg h)
  | loop =>
    by_cases h : s.clock.state.refusesSeek = true
    · exact Or.inl (if_pos h)
    · exact Or.inr (Or.inr ⟨rfl, by simpa using h, if_neg h⟩)

/-- The counter fields of the 32 staged cue entries lie in record memory (R138, R188). -/
theorem cueCounterAddr_bound {i : Nat} (h : i < 32) : cueCounterAddr i + 2 ≤ recordSize := by
  unfold cueCounterAddr tableBase cueOffset recordSize
  omega

theorem cueRecorded_ok (i : Nat) (s : State) (hi : i < 32) (h : s.memoryOk) (hr : s.ringOk) :
    (cueRecorded i s).memoryOk ∧ (cueRecorded i s).ringOk := by
  refine ⟨?_, hr⟩
  have h1 := writeBytes_memoryOk (cueCounterAddr i) (natBytes 2 (bump16 (cueAt s i).hits)) s h
    (cueCounterAddr_bound hi)
  exact memoryOk_congr rfl rfl rfl h1

/-- A seek keeps the memories and the ring in order (R145). -/
theorem takeSeek_ok (target : Nat) (auto : Bool) (s : State) (h : s.memoryOk) (hr : s.ringOk) :
    (takeSeek target auto s).memoryOk ∧ (takeSeek target auto s).ringOk := by
  have hout : outside (seekTaken target auto s) = outside s := by
    have e : outside (seekTaken target auto s) = outside (endTest (restPedals (clearSchedule s))) := rfl
    rw [e, outside_endTest, outside_restPedals, outside_clearSchedule]
  have h1 := memoryOk_outside hout h
  have h2 := ringOk_outside hout hr
  rw [takeSeek_eq]
  generalize seekTaken target auto s = y at h1 h2
  dsimp only
  split
  · rename_i ha
    obtain ⟨hring, hidx⟩ := h2 ha
    have hk := flushRun_ok y.intake.q y h1 hring hidx
    refine ⟨memoryOk_congr rfl rfl rfl hk.1, fun _ => ⟨?_, hk.2⟩⟩
    have hf := (flushRun_kept y.intake.q y).2
    have hb : (flushRun y.intake.q y).intake.base = y.intake.base := by
      have := congrArg Intake.base hf; exact this
    have hq : (flushRun y.intake.q y).intake.q = y.intake.q := by
      have := congrArg Intake.q hf; exact this
    show ringInRange (flushRun y.intake.q y).intake.base (flushRun y.intake.q y).intake.q = true
    rw [hb, hq]
    exact hring
  · exact ⟨h1, h2⟩

/-- A firing keeps the memories and the ring in order. -/
theorem fireCue_ok (i : Nat) (s : State) (hi : i < 32) (h : s.memoryOk) (hr : s.ringOk) :
    (fireCue i s).memoryOk ∧ (fireCue i s).ringOk := by
  have h1 := cueRecorded_ok i s hi h hr
  rcases fireCue_cases i s with e | ⟨_, _, e⟩ | ⟨_, _, e⟩
  · rw [e]; exact h1
  · rw [e]
    exact ⟨memoryOk_outside (outside_pauseRoll _) h1.1, ringOk_outside (outside_pauseRoll _) h1.2⟩
  · rw [e]; exact takeSeek_ok _ _ _ h1.1 h1.2

/-- A property that every firing keeps is kept by the cues of one position. -/
theorem fireCues_inv (P : State → Prop) : ∀ (l : List Nat), (∀ i ∈ l, ∀ s, P s → P (fireCue i s)) →
    ∀ s, P s → P (fireCues l s) := by
  intro l
  induction l with
  | nil => intro _ s hs; exact hs
  | cons i t ih =>
    intro h s hs
    have h1 := h i List.mem_cons_self s hs
    unfold fireCues
    split
    · exact h1
    · exact ih (fun j hj => h j (List.mem_cons_of_mem _ hj)) _ h1

/-- A property that every firing and every arrival keeps is kept by a STEP's movement (R16). -/
theorem stepThrough_inv (P : State → Prop) (x : Nat) (move : ∀ y s, P s → P (handOnAll (setP y s))) :
    ∀ (l : List Nat), (∀ i ∈ l, ∀ s, P s → P (fireCue i s)) → ∀ s, P s → P (stepThrough x l s) := by
  intro l
  induction l with
  | nil => intro _ s hs; exact move x s hs
  | cons i t ih =>
    intro h s hs
    have h1 := h i List.mem_cons_self _ (move ((cueAt s i).line * 256) s hs)
    unfold stepThrough
    dsimp only
    split
    · exact h1
    · exact ih (fun j hj => h j (List.mem_cons_of_mem _ hj)) _ h1

/-! ### Events at a position -/

theorem canReach_iff (x : Nat) (s : State) :
    canReach x s = true
      ↔ s.clock.state = .playing ∧ s.clock.p < x ∧ x ≤ s.clock.nIn * 256 ∧ clearTo s x = true := by
  simp [canReach, and_assoc]

/-- An event at a position always answers a next state, in one of three ways. -/
theorem eventAt_cases (x : Nat) (event : State → State) (s : State) :
    ∃ t, eventAt x event s = .next t
      ∧ ((x = s.clock.p ∧ t = settle (event s))
        ∨ (canReach x s = true ∧ t = settle (meetBoundary (fireCues (crossings s s.clock.p x) (event (advanceTo x s)))))
        ∨ (x ≠ s.clock.p ∧ canReach x s = false ∧ t = s)) := by
  unfold eventAt
  split
  · rename_i h; exact ⟨_, rfl, Or.inl ⟨h, rfl⟩⟩
  · rename_i h
    split
    · rename_i hr; exact ⟨_, rfl, Or.inr (Or.inl ⟨hr, rfl⟩)⟩
    · rename_i hr; exact ⟨_, rfl, Or.inr (Or.inr ⟨h, by simpa using hr, rfl⟩)⟩

/-- A property that the event, the advance, the firings, the boundaries and settling keep is kept by an event at a
position. -/
theorem eventAt_inv (P : State → Prop) (x : Nat) (event : State → State) (he : ∀ s, P s → P (event s))
    (ha : ∀ s, P s → P (advanceTo x s)) (hc : ∀ i, i < 32 → ∀ s, P s → P (fireCue i s))
    (hb : ∀ s, P s → P (meetBoundary s)) (hs : ∀ s, P s → P (settle s))
    (s : State) (h : P s) : ∃ t, eventAt x event s = .next t ∧ P t := by
  obtain ⟨t, e, h1 | h2 | h3⟩ := eventAt_cases x event s
  · exact ⟨t, e, h1.2 ▸ hs _ (he _ h)⟩
  · refine ⟨t, e, h2.2 ▸ hs _ (hb _ (fireCues_inv P _ (fun i hi => hc i (crossings_lt _ _ _ i hi)) _ (he _ (ha _ h))))⟩
  · exact ⟨t, e, h3.2.2 ▸ h⟩

/-- A property that the advance by a fraction, the firings, the boundaries and settling keep is kept by the next fraction
of play (R8, R13, R18, R140). -/
theorem nextFraction_inv (P : State → Prop) (part : Nat) (s : State)
    (ha : P { advanceTo (s.clock.p + 1) s with
      timing := { (advanceTo (s.clock.p + 1) s).timing with part := part } })
    (hc : ∀ i, i < 32 → ∀ s, P s → P (fireCue i s)) (hb : ∀ s, P s → P (meetBoundary s))
    (hs : ∀ s, P s → P (settle s)) : P (nextFraction part s) := by
  unfold nextFraction
  dsimp only
  split
  · exact ha
  · exact hs _ (hb _ (fireCues_inv P _ (fun i hi => hc i (crossings_lt _ _ _ i hi)) _ ha))

/-- Where play does not stand at a boundary nothing follows (R13, R18). -/
theorem meetBoundary_of_not_at (s : State) (h : atBoundary s = false) : meetBoundary s = s := by
  simp only [atBoundary, Bool.or_eq_false_iff, decide_eq_false_iff_not] at h
  unfold meetBoundary
  split
  · cases he : s.clock.endLine with
    | none => simp [h.1]
    | some e =>
      have : ¬ e * 256 ≤ s.clock.p := by simpa [he] using h.2
      simp [this, h.1]
  · rfl

/-- Play that has met its boundary goes on only short of it (R9, R13, R18). -/
theorem meetBoundary_short (s : State) (h : (meetBoundary s).clock.state = .playing) :
    atBoundary (meetBoundary s) = false := by
  by_cases hp : s.clock.state = .playing
  · by_cases hb : atBoundary s = false
    · rw [meetBoundary_of_not_at s hb]; exact hb
    · exfalso
      revert h
      unfold meetBoundary
      rw [if_pos hp]
      simp only [atBoundary, Bool.not_eq_false, Bool.or_eq_true, decide_eq_true_eq] at hb
      cases he : s.clock.endLine with
      | none =>
        simp only [he, Option.any_none, Bool.false_eq_true, or_false] at hb
        simp [hb, starve]
      | some e =>
        by_cases h1 : e * 256 ≤ s.clock.p
        · simp [h1, finishRoll, setRoll]
        · have h2 : s.clock.nIn * 256 ≤ s.clock.p := by simpa [he, h1] using hb
          simp [h1, h2, starve]
  · exfalso
    unfold meetBoundary at h
    rw [if_neg hp] at h
    exact hp h

/-- The next of some positions: an event there, or nothing. -/
theorem eventAtNext_cases (xs : List Nat) (event : State → State) (s : State) :
    (leastAbove s.clock.p xs = none ∧ eventAtNext xs event s = .next s)
      ∨ ∃ x, leastAbove s.clock.p xs = some x ∧ eventAtNext xs event s = eventAt x event s := by
  unfold eventAtNext
  cases leastAbove s.clock.p xs with
  | none => exact Or.inl ⟨rfl, rfl⟩
  | some x => exact Or.inr ⟨x, rfl, rfl⟩

/-! ### Lines read in turn (R29) -/

theorem readAll_nil (s : State) : readAll [] s = s := rfl

theorem readAll_single (ln : Line) (s : State) : readAll [ln] s = readLine s ln := rfl

theorem handOverFirst_single (ln : Line) (s : State) :
    handOverFirst [ln] s
      = if s.clock.state = .leader ∧ s.clock.signatureTaken then handOver ln.number s else s := rfl

/-- A property that reading a line, starvation and the hand-over keep is kept by the lines of an event. -/
theorem readAll_inv (P : State → Prop) (hr : ∀ s ln, P s → P (readLine s ln)) (hs : ∀ s, P s → P (starve s))
    (ls : List Line) (s : State) (h : P s) : P (readAll ls s) := by
  unfold readAll
  split
  · exact h
  · refine foldl_inv P readNext (fun s ln h => ?_) _ _ (hr _ _ h)
    unfold readNext
    split
    · exact hr _ _ (hs _ h)
    · exact hr _ _ h

/-! ### Issuing in rounds (R96, R97, R109) -/

/-- A property that an issue and handing on keep is kept by the rounds of stage 4. -/
theorem issueRounds_inv (P : State → Prop) (hi : ∀ s e, P s → P (issueEntry s e)) (hh : ∀ s, P s → P (handOnAll s)) :
    ∀ (n : Nat) (s : State), P s → P (issueRounds n s) := by
  intro n
  induction n with
  | zero => intro s h; exact h
  | succ n ih =>
    intro s h
    unfold issueRounds
    split
    · exact h
    · exact ih _ (hh _ (foldl_inv P issueEntry hi _ _ h))

/-- With nothing that stands to issue the rounds do nothing. -/
theorem issueRounds_of_none (n : Nat) (s : State) (h : s.sched.timeline.filter Entry.issues = []) :
    issueRounds n s = s := by
  cases n with
  | zero => rfl
  | succ n => unfold issueRounds; rw [h]; rfl

/-- A property that the parts of stage 4 keep is kept by the stage. -/
theorem stageReleases_inv (P : State → Prop) (ho : ∀ s k, P s → P (recordOff s k)) (hi : ∀ s e, P s → P (issueEntry s e))
    (hr : ∀ s k, P s → P (restrikeOff s k)) (hd : ∀ s k, P s → P (dropIdle s k)) (hh : ∀ s, P s → P (handOnAll s))
    (due : List Nat) (s : State) (h : P s) : P (stageReleases due s) := by
  unfold stageReleases
  dsimp only
  have h1 := foldl_inv P recordOff ho due s h
  refine hh _ (foldl_inv P dropIdle hd _ _ (foldl_inv P restrikeOff hr _ _ ?_))
  split
  · exact issueRounds_inv P hi hh _ _ h1
  · exact h1

/-- What stands to be recorded when a build begins (R101, R103). -/
theorem mem_offsDue (s : State) (k : Nat) : k ∈ offsDue s ↔ k < 88 ∧ (keyRec s k).offDue = true := by
  simp [offsDue]

end Sys2Proof.Laws
end

