-- ==== Sys2Proof/Laws/Tables.lean ====
section
/-! SUPPORT. The built-in table area: what it decodes to, and that it passes validation (R162); the settings line over
an image that a store has written. -/

namespace Sys2Proof.Laws

open Sys2Proof Sys2Proof.Machine

theorem builtInArea_length : builtInArea.length = tableLength := by decide +kernel

/-- The bytes of the built-in area give the built-in tables (R162). -/
theorem decodeTables_builtInArea : decodeTables builtInArea = Tables.builtIn := by decide +kernel

theorem decodeCues_builtInArea : decodeCues builtInArea = builtInCues := by decide +kernel

/-- The channel map entries of the built-in area (R119). -/
theorem mapEntry_builtInArea : ∀ o, o < 90 → mapEntry builtInArea o = some (.wired (o / 24) (o % 24)) := by decide +kernel

/-- No two outputs of the built-in map share a place, so every entry passes (R119, R157). -/
theorem mapOk_builtInArea (o : Nat) (h : o < 90) : mapOk builtInArea o = true := by
  unfold mapOk
  rw [mapEntry_builtInArea o h]
  simp only [List.all_eq_true, List.mem_range, bne_iff_ne, ne_eq]
  intro j hj
  rw [mapEntry_builtInArea j (by omega)]
  simp only [Option.some.injEq, Place.wired.injEq, not_and]
  omega

theorem firstBad_none (n : Nat) (ok : Nat → Bool) (h : ∀ i, i < n → ok i = true) : firstBad n ok = none := by
  unfold firstBad
  rw [List.find?_eq_none]
  intro i hi
  simp [h i (List.mem_range.mp hi)]

theorem profileOk_builtInArea : ∀ i, i < 8 → profileOk builtInArea i = true := by decide +kernel

theorem pedalOk_builtInArea : ∀ i, i < 2 → pedalOk builtInArea i = true := by decide +kernel

theorem driveOk_builtInArea : driveOk builtInArea = true := by decide +kernel

theorem cueOk_builtInArea : ∀ i, i < 32 → cueOk builtInArea i = true := by decide +kernel

theorem voicingOk_builtInArea : ∀ k, k < 88 → voicingOk builtInArea k = true := by decide +kernel

/-- "These defaults pass validation" (R162). -/
theorem firstInvalid_builtInArea : firstInvalid builtInArea = none := by
  unfold firstInvalid
  rw [firstBad_none 8 _ profileOk_builtInArea, firstBad_none 2 _ pedalOk_builtInArea,
    firstBad_none 1 _ (fun _ _ => driveOk_builtInArea), firstBad_none 32 _ cueOk_builtInArea,
    firstBad_none 90 _ mapOk_builtInArea, firstBad_none 88 _ voicingOk_builtInArea]
  rfl

/-- The table area just written is what is staged. -/
theorem stagedArea_writeBytes (s : State) (area : List Byte) (h : area.length = tableLength) :
    stagedArea (writeBytes tableBase area s) = area := by
  unfold stagedArea
  rw [← h]
  exact readBytes_writeBytes s tableBase area

/-- A settings line without deviations delivers an image of 2440 bytes as it was written. -/
theorem lineBytes_writeBlock (s : State) (image : List Byte) (h : image.length = 2440)
    (hs : s.settings = Mem.writeBlock settingsFill [] 0 image) : lineBytes s [] = image := by
  apply List.ext_getElem
  · simp [lineBytes, h]
  · intro i h1 h2
    have h3 := mem_read_writeBlock_inside settingsFill [] 0 i image h2
    rw [Nat.zero_add] at h3
    simp only [lineBytes, List.find?_nil, List.getElem_map, List.getElem_range]
    rw [hs, h3, List.getD_eq_getElem?_getD, List.getElem?_eq_getElem h2, Option.getD_some]

theorem natBytes_length (n : Nat) : ∀ v, (natBytes n v).length = n := by
  induction n with
  | zero => intro v; rfl
  | succ n ih => intro v; simp [natBytes, ih]

theorem settingsImage_length (g : Nat) (area : List Byte) (h : area.length = tableLength) :
    (settingsImage g area).length = 2440 := by
  unfold settingsImage
  simp only [List.length_append, natBytes_length, h, tableLength]

/-- The fields of an image and the area behind its header. -/
theorem settingsImage_drop (g : Nat) (area : List Byte) : (settingsImage g area).drop 8 = area := rfl

end Sys2Proof.Laws
end

