-- ==== Sys2Proof/Tests/Slice0.lean ====
section
/-! SUPPORT. Tests: ill-formed terms that the check refuses, the manual's own figures, one small step per command, and for
every claim with hypotheses a concrete state and operands that meet them. -/

namespace Sys2Proof.Tests

open Sys2Proof Sys2Proof.Machine

set_option Elab.async false

set_option maxRecDepth 4000

/-! ### Small states -/

/-- The state after reset with the settings load done and the built-in tables live. -/
def base : State := { State.reset with tables := { State.reset.tables with link := .idle } }

/-- `base` in a roll state, with P, N_in and a line of the roll held. -/
def at_ (st : RollState) (p n : Nat) : State :=
  { base with clock := { base.clock with state := st, p := p, nIn := n, lineHeld := true } }

/-- The 20 bytes of a slot. -/
def slotOf (control : Byte) (n : Nat) (img : BitVec 104) (spoil : Byte) : List Byte :=
  let b := natBytes 4 n ++ natBytes 13 img.toNat
  control :: b ++ [checkByte b ^^^ spoil, 0#8]

/-- `s` with a ring of 16 slots at 0x0100 whose first slot holds the given bytes. -/
def withSlot (policy : Policy) (slot : List Byte) (s : State) : State :=
  let s := { s with intake := { s.intake with attached := true, base := 0x0100, q := 16, policy := policy } }
  let s := writeBytes 0x0100 slot s
  { s with intake := { s.intake with owned := countOwned s.mem s.intake } }

/-- A Timeline of one entry. -/
def withEntry (e : Entry) (s : State) : State := { s with sched := { s.sched with timeline := [e], nextSeq := 1 } }

def strike40 (restrike : Bool) : StrikeBody := ⟨40, 40, 210, 135, 512, false, restrike, false, 0⟩

def entryOf (b : EntryBody) (st : EntryState) : Entry := ⟨b, 1000, 1000, 0, st⟩

/-- `s` with the Sounding Table record of note track 40. -/
def withTrack (r : TrackRec) (s : State) : State := setTrack 40 (fun _ => r) s

/-- A note of track 40 on key 40, struck by entry 7, in a Sounding Table state. -/
def note (st : TrackState) : TrackRec := ⟨st, false, 40, some 7, some 7, 0⟩

/-- `s` with cue 0 live and armed. -/
def withCue (action : CueAction) (s : State) : State :=
  { s with
    cues := { live := vset s.cues.live 0 ⟨70, 80, action, true, true, true, 0⟩, last := none } }

/-- The response a command leaves at a port. -/
def answerOf (p : Port) (c : Instr) (s : State) : Option Response :=
  match exec c s with
  | .next t => t.answer p
  | .fault _ | .refused _ => none

/-- The state a command leaves; the state itself where it stops, which none does. -/
def after (c : Instr) (s : State) : State :=
  match exec c s with
  | .next t => t
  | .fault _ | .refused _ => s

/-! ### Ill-formed terms -/

theorem test_wf_refuses_noise_past_the_image : Instr.wf (.settingsLoadComplete true [(2440, 0#8)]) = false := by decide

theorem test_wf_refuses_failure_past_the_image : Instr.wf (.storeWriteDone (some 2440)) = false := by decide

theorem test_wf_refuses_verify_noise_past_the_image : Instr.wf (.storeVerifyDone true [(2440, 0#8)]) = false := by decide

theorem test_wf_refuses_a_sound_frame_as_fault : Instr.wf (.frameFault .c (encodeRequest (.load .c))) = false := by decide

theorem test_wf_refuses_a_fetch_as_fault : Instr.wf (.frameFault .c [0xF0#8, 0#8]) = false := by decide

theorem test_wf_refuses_an_empty_write : Instr.wf (.write .c 0x1580#16 []) = false := by decide

theorem test_wf_refuses_a_long_write : Instr.wf (.write .c 0x1580#16 (List.replicate 65 0#8)) = false := by decide

theorem test_wf_refuses_a_third_line_drive : Instr.wf (.setAttentionMask .c 0#16 2#8) = false := by decide

theorem test_wf_refuses_a_third_pedal : Instr.wf (.pedalOverride .c 2#8 0#8) = false := by decide

theorem test_wf_refuses_a_fourth_mode : Instr.wf (.pedalOverride .c 0#8 3#8) = false := by decide

theorem test_wf_takes_the_longest_write : Instr.wf (.write .c 0x1580#16 (List.replicate 64 0#8)) = true := by decide

/-! ### The manual's figures -/

theorem test_servo_table : servo 512 512 = 0 ∧ servo 400 512 = -2880 ∧ servo 200 512 = -14880 ∧ servo 40 512 = -24480
    ∧ servo 256 512 = -11520 ∧ servo 0 2048 = -30000 := by decide

theorem test_tempo_rates : commandedRate 7680 1050 = 8064 ∧ commandedRate 19200 1500 = 19200 := by decide

theorem test_folded_keys : foldKey 82 6 = 76 ∧ foldKey 3 (-6) = 9 ∧ foldKey 40 2 = 42 := by decide

theorem test_level_of_the_worked_strike :
    trimmedLevel { Expression.reset with gain := 144, balance := -8 } .bass 560 = 662
      ∧ trimmedLevel { Expression.reset with gain := 144, balance := -8 } .treble 400 = 418 := by decide

theorem test_kick_and_ease :
    ((PedalRec.reset.granted LiftFigures.builtIn).kickEnds.duty, (PedalRec.reset.granted LiftFigures.builtIn).kickEnds.easeFalls.duty)
      = (247, 239) := by decide

/-! ### One step of each command -/

theorem test_pin_reset : (after .pinReset base).tables.link = .loading := by decide +kernel

theorem test_settings_load_refused : (after (.settingsLoadComplete true []) State.reset).tables.generation = 1 := by decide +kernel

theorem test_store_write_failed :
    (after (.storeWriteDone (some 1)) { base with tables := { base.tables with link := .storing, storeCopy := [1#8, 2#8] } }).settings
      = [(0, 1#8)] := by decide +kernel

theorem test_store_verified :
    (after (.storeVerifyDone true []) { base with tables := { base.tables with link := .verifying } }).tables.lastStore
      = .verifyFailed := by decide +kernel

theorem test_fetch : ((after (.fetch .c 2) base).ports.get .c).sdo = [0xFF#8, 0xFF#8] := by decide

theorem test_frame_fault : answerOf .c (.frameFault .c [1#8]) base = some ⟨.frameFault, []⟩ := by decide +kernel

theorem test_unknown_request : answerOf .c (.frameFault .c (requestFrame 0x7F#8 [])) base = some ⟨.unknownRequest, []⟩ := by
  decide +kernel

theorem test_read : answerOf .c (.read .c 0x1FFF#16 1#8) base = some ⟨.done, [0#8]⟩ := by decide +kernel

theorem test_read_past_the_end : answerOf .c (.read .c 0x1FFF#16 2#8) base = some ⟨.refusedRange, []⟩ := by decide +kernel

theorem test_read_on : ((after (.readOn .c 64#8) base).ports.get .c).window = 64 := by decide +kernel

theorem test_write : (after (.write .c 0x1580#16 [7#8]) base).mem = [(0x1580, 7#8)] := by decide +kernel

theorem test_write_of_the_fill_removes_the_cell :
    (after (.write .c 0x1580#16 [0#8]) (after (.write .c 0x1580#16 [7#8]) base)).mem = [] := by decide +kernel

theorem test_read_status :
    answerOf .c (.readStatus .c) State.reset
      = some ⟨.done, [0#8, 0#8, 0x00#8, 0x1E#8, 0#8, 0#8, 0#8, 0#8, 0#8, 0#8, 0#8, 0x10#8]⟩ := by decide +kernel

theorem test_clear_attention :
    answerOf .s (.clearAttention .s 0x0001#16) (raise .cue (raise .ended base)) = some ⟨.done, [2#8, 0#8]⟩ := by decide +kernel

theorem test_set_attention_mask : answerOf .s (.setAttentionMask .s 0xFFFF#16 1#8) base = some ⟨.done, [0xFF#8, 0x07#8]⟩ := by
  decide +kernel

theorem test_capture : readByte (after (.capture .c 0#8) (at_ .paused 0 5)) 0x1F06 = 5#8 := by decide +kernel

theorem test_soft_reset : (after (.softReset .c) (at_ .playing 0 5)).clock.state = .empty := by decide +kernel

theorem test_attach_ring : (after (.attachRing .s 0x0100#16 32#8 0#8) base).intake.q = 32 := by decide +kernel

theorem test_intake_resume :
    (after (.intakeResume .c) { base with intake := { base.intake with state := .halted } }).intake.state = .running := by
  decide +kernel

theorem test_load : (after (.load .c) { base with intake := { base.intake with attached := true } }).clock.directive
    = ⟨.run, 7680, 0, 1#8⟩ := by decide +kernel

theorem test_play_starves_at_the_last_line : (after (.play .c) (at_ .ready (5 * 256) 5)).clock.state = .starved := by decide +kernel

theorem test_pause : (after (.pause .c) (at_ .playing 0 5)).clock.state = .paused := by decide +kernel

theorem test_stop : (after (.stop .c) (at_ .playing 0 5)).clock.nIn = 0 := by decide +kernel

theorem test_tempo :
    answerOf .c (.tempo .c 1050#16) base = some ⟨.done, [0x1A#8, 0x04#8, 0x80#8, 0x1F#8]⟩ := by decide +kernel

theorem test_step_mode_on : (after (.stepModeOn .c) (at_ .ready 0 5)).clock.state = .stepping := by decide +kernel

theorem test_step_mode_off : (after (.stepModeOff .c) (at_ .stepping 0 5)).clock.state = .paused := by decide +kernel

theorem test_step : answerOf .c (.step .c 64#8) (at_ .stepping 100 5) = some ⟨.done, [5#8]⟩ := by decide +kernel

theorem test_seek_clamped :
    answerOf .c (.seek .c 10#32 0#8) (at_ .paused 0 5) = some ⟨.clamped, [64#8, 0#8, 0#8, 0#8, 64#8, 0#8, 0#8, 0#8]⟩ := by
  decide +kernel

theorem test_trim : answerOf .c (.trim .c 300#16 0xFFF8#16) base = some ⟨.clamped, [255#8, 0xF8#8]⟩ := by decide +kernel

theorem test_transpose : answerOf .c (.transpose .c 0x80#8) base = some ⟨.clamped, [0xFA#8]⟩ := by decide +kernel

theorem test_pedal_override : (after (.pedalOverride .c 0#8 1#8) base).pedals.damper.state = .waitingSlot := by decide +kernel

theorem test_restart_chain : answerOf .c (.restartChain .c 3#8) base = some ⟨.done, []⟩ := by decide +kernel

theorem test_frame_crc : (after (.frameCrc .c 1#8 255#8) base).check.left = 255 := by decide +kernel

theorem test_test_pulse_refused_off_line : answerOf .c (.testPulse .c 87#8 800#16) base = some ⟨.refusedState, []⟩ := by
  decide +kernel

theorem test_apply_tables_refused : answerOf .c (.applyTables .c) base = some ⟨.refusedTable, [1#8, 0#8]⟩ := by decide +kernel

theorem test_store_settings : (after (.storeSettings .c) base).tables.storeCopy.length = 2440 := by decide +kernel

theorem test_reload_settings : (after (.reloadSettings .c) base).tables.link = .loading := by decide +kernel

theorem test_starvation : (after .starvation (at_ .playing 100 5)).clock.p = 1280 := by decide +kernel

theorem test_frame_build_sends_an_idle_frame :
    (chainRec (after .frameBuild base) 0).lastSent = some (0#8, 0x3C#8) := by decide +kernel

theorem test_echo : (chainRec (after (.echoReceived 1 5#8 6#8 true) base) 1).echo = .wrong := by decide +kernel

/-! ### Hypotheses met: the queue, reset and transfers -/

theorem witness_StepRunsTheFrontCommand : (base.withCommand .frameBuild).pending = [.frameBuild] := by decide +kernel

theorem witness_IdleStepTakesTheDueEventOrATick :
    base.pending = [] ∧ internalEvent base = none
      ∧ internalEvent { base with timing := { base.timing with phase := 16000 } } = some .frameBuild
      ∧ internalEvent { at_ .playing 0 5 with timing := ⟨0, 0, 7680000000, 0⟩ } = none
      ∧ internalEvent { at_ .playing 0 5 with timing := ⟨0, 0, 7680000000, 999999999999⟩ } = none := by decide +kernel

theorem witness_IdleStepTakesTheDueEventOrATick_cue :
    let s := { withCue .notice (at_ .playing (70 * 256 - 1) 100) with timing := ⟨0, 0, 7680000000, 999999999999⟩ }
    s.pending = [] ∧ internalEvent s = none ∧ crossings s s.clock.p (s.clock.p + 1) = [0]
      ∧ crossings s (s.clock.p + 1) (s.clock.p + 2) = [] := by decide +kernel

/-- Play one fraction and one CLKIN period short of line 100, N_in there or beyond, with an end line or none. -/
def arriving (n : Nat) (endLine : Option Nat) : State :=
  let s := at_ .playing (100 * 256 - 1) n
  { s with clock := { s.clock with endLine := endLine }, timing := ⟨0, 0, 7680000000, 999999999999⟩ }

theorem witness_IdleStepTakesTheDueEventOrATick_boundary :
    ∀ x ∈ [(100, none), (100, some 100), (101, some 100), (101, none)],
      internalEvent (arriving x.1 x.2) = none ∧ (arriving x.1 x.2).positionOk
        ∧ crossings (arriving x.1 x.2) (100 * 256 - 1) (100 * 256) = [] := by decide +kernel

/-- Each event that can be due, and the drive period's last instant at which none is. -/
theorem witness_IdleStepTakesTheDueEventOrATick_events :
    let lift := fun st => withEntry { entryOf (.lift .damper) .waiting with releasePos := 0 } (at_ st 70 5)
    let slot := withSlot .hold (slotOf 1#8 6 0#104 0#8) (at_ .ready 0 5)
    let ending := fun n => { arriving n (some 100) with clock := { (arriving n (some 100)).clock with p := 100 * 256 } }
    internalEvent (lift .stepping) = some .handOn ∧ internalEvent (lift .ready) = none
      ∧ internalEvent (ending 100) = some .endOfRoll
      ∧ internalEvent { ending 100 with clock := { (ending 100).clock with endLine := none } } = some .starvation
      ∧ internalEvent slot = some .consumptionEvent
      ∧ internalEvent { base with timing := { base.timing with phase := 15999 } } = none := by decide +kernel

/-- The step that brings play to N_in starves it, so that a PAUSE after it has met STARVED (R9, R13). -/
theorem test_pause_after_the_arrival_has_met_starvation :
    let t := clockTick (arriving 100 none)
    let u := after (.pause .c) t
    (t.clock.state, t.clock.p, t.clock.starvations) = (.starved, 100 * 256, 1)
      ∧ (u.clock.state, u.clock.p, u.clock.starvations) = (.paused, 100 * 256, 1)
      ∧ (clockTick (arriving 100 (some 100))).clock.state = .ended := by decide +kernel

theorem witness_takesRequests : base.takesRequests := by decide

theorem witness_PinResetRestoresEveryBlock : base.tables.link ≠ .storing := by decide

theorem witness_RequestFramesAreReadBack :
    requestParts (.seek .s 0xFFFFFFFF#32 0xFF#8) = some (.s, 0x28#8, List.replicate 5 0xFF#8)
      ∧ Instr.wf (.seek .s 0xFFFFFFFF#32 0xFF#8) = true := by decide

theorem witness_FaultyTransfersAreAnswered :
    judgeTransfer .c [1#8] = .frameFault ∧ judgeTransfer .c (requestFrame 0x7F#8 []) = .unknownRequest
      ∧ judgeTransfer .c (requestFrame 0x20#8 [0#8]) = .badShape false
      ∧ judgeTransfer .c (requestFrame 0x32#8 [2#8, 0#8]) = .badShape false
      ∧ judgeTransfer .c (requestFrame 0x04#8 [0#8]) = .badShape true ∧ State.reset.tables.link = .loading := by decide

theorem witness_FaultyTransfersAreAnswered_framed :
    (∀ b ∈ [requestFrame 0x7F#8 [], requestFrame 0x32#8 [1#8, 2#8], requestFrame 0x32#8 [2#8, 0#8]],
      let len := (b.getD 1 0#8).toNat
      3 ≤ b.length ∧ len ≤ 70 ∧ b.length = len + 3
        ∧ b.getD (len + 2) 0#8 = (b.take (len + 2)).foldl (fun x y => x ^^^ y) 0x3C#8)
      ∧ payloadLengths 0x7F = none ∧ payloadLengths 0x32 = some (2, 2) := by decide

theorem witness_FaultyTransfersAreAnswered_selectors :
    selectorsNamed 0x32 [1#8, 2#8] ∧ ¬selectorsNamed 0x32 [2#8, 0#8] ∧ selectorsNamed 0x06 [0#8, 0#8, 1#8]
      ∧ ¬selectorsNamed 0x06 [0#8, 0#8, 2#8] := by
  simp [selectorsNamed]

theorem witness_LoadingRefusesEveryRequest :
    requestParts (.load .c) = some (.c, 0x20#8, []) ∧ Instr.load .c ≠ .readStatus .c ∧ Instr.wf (.load .c) = true
      ∧ State.reset.tables.link = .loading := by decide

theorem witness_ReadsAnswerTheBytesFromTheAddress :
    (1 ≤ 64 ∧ 64 ≤ 64 ∧ 0x1FC0 + 64 ≤ 0x2000) ∧ ¬(1 ≤ 64 ∧ 64 ≤ 64 ∧ 0x1FC1 + 64 ≤ 0x2000) ∧ ¬(1 ≤ 0) ∧ ¬(65 ≤ 64) := by
  decide

theorem witness_WriteStoresTheBytes :
    inOwnRegion .s 0x0BC0 64 ∧ inOwnRegion .c 0x0C00 1 ∧ 0x1FFF + 1 ≤ 0x2000
      ∧ (base.tables.link ≠ .storing ∧ base.tables.link ≠ .verifying ∨ 0x1580 ≤ 0x0C00)
      ∧ (Port.c = .c → base.tables.link ≠ .storing ∧ base.tables.link ≠ .verifying ∨ 0x1580 ≤ 0x157F) := by decide

/-- One slot's OWN flag set by a WRITE, and one cleared. -/
theorem witness_WriteStoresTheBytes_own :
    let free := withSlot .hold (slotOf 0#8 6 0#104 0#8) base
    let held := withSlot .hold (slotOf 1#8 6 0#104 0#8) base
    let set := after (.write .s 0x0100#16 [1#8]) free
    let cleared := after (.write .s 0x0100#16 [0#8]) held
    (slotOwn (slotControl set 0), slotOwn (slotControl cleared 0)) = (true, false)
      ∧ (free.intake.owned, set.intake.owned, held.intake.owned, cleared.intake.owned) = (0, 1, 1, 0)
      ∧ ∀ i, i < 16 → i ≠ 0 → slotOwn (slotControl set i) = slotOwn (slotControl free i) := by decide +kernel

theorem witness_WriteStoresTheBytes_hysteresis :
    (16 - 2 ≤ 14) ∧ (8 < 16 - 2 ∧ 8 ≤ 16 / 2) ∧ (9 < 16 - 2 ∧ 16 / 2 < 9) := by decide

theorem witness_RefusedWritesChangeNothing :
    0x2000 < 0x1FFF + 2 ∧ ¬inOwnRegion .s 0x0BFF 2 ∧ ¬inOwnRegion .c 0x0BFF 1 ∧ inOwnRegion .c 0x157F 1 ∧ 0x157F < 0x1580
      ∧ ({ base with tables := { base.tables with link := .verifying } } : State).takesRequests := by decide

theorem witness_RefusedWritesChangeNothing_answers :
    ((after (.write .s 0x0BFF#16 [7#8]) base).mem, (after (.write .c 0x0C00#16 [7#8]) base).mem)
      = ([(0x0BFF, 7#8)], [(0x0C00, 7#8)]) := by decide +kernel

theorem witness_AttentionMaskDrivesTheLine :
    (1#8).toNat ≤ 1 ∧ 1 < (2#8).toNat ∧ (raise .cue base).ports.s.pending &&& 1#16 ≠ 0#16
      ∧ base.ports.s.pending &&& base.ports.s.mask = 0#16 ∧ base.ports.s.drive = .openDrain
      ∧ { base.ports.s with drive := .pushPull }.drive = .pushPull := by decide +kernel

/-! ### Hypotheses met: the intake and reading -/

theorem witness_AttachRingTakesTheRing :
    (at_ .paused 0 5).clock.state ≠ .empty ∧ base.clock.state = .empty
      ∧ ((16 ≤ 128 ∧ 128 ≤ 128) ∧ 0x01C0 % 4 = 0 ∧ 0x01C0 + 20 * 128 ≤ 0x0BC0 ∧ 1 ≤ 1)
      ∧ ¬((16 ≤ 15 ∧ 15 ≤ 128) ∧ 0x01C0 % 4 = 0 ∧ 0x01C0 + 20 * 15 ≤ 0x0BC0 ∧ 1 ≤ 1) := by decide

theorem witness_SlotCheckIsTheExclusiveOr :
    (slotOf 1#8 6 0#104 0#8).length = 20 ∧ slotCheckOk (slotOf 1#8 6 0#104 0#8) = true
      ∧ slotCheckOk (slotOf 1#8 6 0#104 1#8) = false := by decide +kernel

theorem witness_ConsumptionReturnsTheSlot :
    consumable (withSlot .hold (slotOf 1#8 6 0#104 0#8) (at_ .playing 0 5)) = true ∧ consumable base = false := by decide +kernel

/-- `at_ st 0 n` with the seek record at target 80, seek start 70, and a slot at the consume index. -/
def sought (st : RollState) (n : Nat) (auto : Bool) (slot : List Byte) : State :=
  let s := at_ st (n * 256) n
  withSlot .hold slot
    { s with clock := { s.clock with autoPlay := auto }, seek := { s.seek with target := 80, start := 70 } }

theorem witness_ConsumptionReturnsTheSlot_seeking :
    (∀ slot ∈ [slotOf 1#8 70 0#104 1#8, slotOf 1#8 69 0#104 0#8, slotOf 5#8 60 0#104 0#8, slotOf 1#8 70 0#104 0#8,
        slotOf 1#8 79 0#104 0#8, slotOf 1#8 80 0#104 0#8, slotOf 1#8 81 0#104 0#8],
      consumable (sought .seeking 5 true slot) = true ∧ (sought .seeking 5 true slot).clock.endLine = none)
      ∧ slotCheckOk (slotOf 1#8 70 0#104 1#8) = false ∧ slotEnd 5#8 = true ∧ slotEnd 1#8 = false
      ∧ (slotNumber (slotOf 1#8 69 0#104 0#8), slotNumber (slotOf 1#8 80 0#104 0#8)) = (69, 80) := by decide +kernel

theorem witness_DuplicatesAreDropped :
    let s := withSlot .hold (slotOf 1#8 5 0#104 0#8) (at_ .playing 0 5)
    consumable s = true ∧ slotCheckOk (slotBytes s 0) = true ∧ slotNumber (slotBytes s 0) < expectedLine s := by decide +kernel

theorem witness_HaltPolicyHaltsTheIntake :
    let s := withSlot .halt (slotOf 1#8 6 0#104 1#8) (at_ .playing 0 5)
    consumable s = true ∧ slotCheckOk (slotBytes s 0) = false ∧ s.intake.policy = .halt := by decide +kernel

theorem witness_LinesInSequenceRaiseTheMargin :
    let s := withSlot .hold (slotOf 1#8 6 0#104 0#8) (at_ .playing (5 * 256) 5)
    consumable s = true ∧ s.clock.state = .playing ∧ s.clock.lineHeld = true ∧ slotCheckOk (slotBytes s 0) = true
      ∧ slotNumber (slotBytes s 0) = s.clock.nIn + 1 ∧ slotEnd (slotControl s 0) = false
      ∧ s.clock.p ≤ s.clock.nIn * 256 ∧ s.clock.endLine = none := by decide +kernel

/-- The states in which lines are read in play, each with a line in sequence, a gap, a held line and an END line. -/
theorem witness_LinesInSequenceRaiseTheMargin_played :
    ∀ st ∈ [RollState.ready, .playing, .starved, .stepping],
      ∀ x ∈ [(slotOf 1#8 56 0#104 0#8, 56), (slotOf 1#8 60 0#104 0#8, 60), (slotOf 1#8 56 0#104 1#8, 56),
          (slotOf 5#8 56 0#104 0#8, 56)],
        let s := withSlot .hold x.1 (at_ st 0 55)
        consumable s = true ∧ s.clock.lineHeld = true ∧ s.clock.p ≤ s.clock.nIn * 256 ∧ s.clock.endLine = none
          ∧ readsUpTo s x.2 := by
  unfold readsUpTo
  decide +kernel

theorem witness_LinesInSequenceRaiseTheMargin_starved :
    let s := fun n => withSlot .hold (slotOf 1#8 n 0#104 0#8) (at_ .starved 0 (n - 1))
    consumable (s 256) = true ∧ (s 256).clock.readAhead / 2 ≤ 256 - 0 ∧ consumable (s 255) = true
      ∧ 255 - 0 < (s 255).clock.readAhead / 2 := by decide +kernel

/-- A line in READY with a note hole, ON_RUN 2, on the second line of the hole: the strike of track 44 stands in the Timeline. -/
theorem witness_LinesInSequenceRaiseTheMargin_events :
    let s := withSlot .hold (slotOf 1#8 66 (BitVec.ofNat 104 (2 ^ 50)) 0#8) (at_ .ready (64 * 256) 65)
    let s := { s with reading :=
      { s.reading with filters := vset s.reading.filters 50 (.opening 1 65), history := [⟨65, ⟨200, 300⟩⟩] } }
    consumable s = true ∧ readsUpTo s 66 ∧ expectedLine s = 66 ∧ trackEvent s (lineRead s) 50 = .onset 65
      ∧ (after .consumptionEvent s).sched.timeline.map (·.lane) = [.key 44] := by
  unfold readsUpTo
  decide +kernel

/-- A state in LEADER at line `n` with a slot at the consume index. -/
def leading (taken : Bool) (n : Nat) (slot : List Byte) : State :=
  let s := at_ .leader 0 n
  withSlot .hold slot { s with clock := { s.clock with signatureTaken := taken } }

theorem witness_LinesInSequenceRaiseTheMargin_leader :
    ∀ x ∈ [(5, slotOf 1#8 6 0#104 0#8, 6), (62, slotOf 1#8 63 0#104 0#8, 63), (62, slotOf 1#8 63 0#104 1#8, 63),
        (60, slotOf 1#8 65 0#104 0#8, 65), (62, slotOf 1#8 64 0#104 0#8, 64), (62, slotOf 1#8 67 0#104 0#8, 67),
        (5, slotOf 5#8 6 0#104 0#8, 6)],
      ∀ taken, consumable (leading taken x.1 x.2.1) = true ∧ readsUpTo (leading taken x.1 x.2.1) x.2.2 := by
  unfold readsUpTo
  decide +kernel

/-- A hole that opens at line 64 in the lookup's own event: the strike stands in the Timeline while the state is LEADER. -/
theorem witness_LinesInSequenceRaiseTheMargin_crossing :
    let s := leading false 62 (slotOf 1#8 67 0#104 0#8)
    let t := after .consumptionEvent { s with intake := { s.intake with lastImage := BitVec.ofNat 104 (2 ^ 50) } }
    t.clock.state = .leader ∧ t.reading.history.map (·.line) = [64, 65, 66, 67]
      ∧ (t.sched.timeline.map fun e => (e.lane, e.state)) = [(.key 44, .waiting)] := by decide +kernel

/-- A profile that the lookup after line 63 selects. -/
theorem witness_LinesInSequenceRaiseTheMargin_lookup :
    let s := leading false 62 (slotOf 1#8 63 0#104 0#8)
    let signature := crcBytes s.reading.signature (imageBytes ((lineRead s).image &&& s.reading.leaderMask))
    let pr := { liveProfile s 1 with valid := 1, signature := signature }
    let live := { s.tables.live with profiles := vset s.tables.live.profiles 1 pr }
    let u := { s with tables := { s.tables with live := live } }
    s.reading.signatureValid = true ∧ (liveProfile u 1).valid ≠ 0 ∧ (liveProfile u 1).signature = signature
      ∧ (after .consumptionEvent u).tables.appliedProfile = 1 := by decide +kernel

theorem witness_GapsAreFilled :
    let s := withSlot .hold (slotOf 1#8 10 0#104 0#8) (at_ .playing 0 5)
    consumable s = true ∧ slotCheckOk (slotBytes s 0) = true ∧ s.clock.nIn + 1 < slotNumber (slotBytes s 0)
      ∧ slotNumber (slotBytes s 0) ≤ s.clock.nIn + 5 ∧ slotEnd (slotControl s 0) = false := by decide +kernel

/-- PREROLL below the target, at it and across it, each with and without END. -/
theorem witness_GapsAreFilled_preroll :
    ∀ auto, ∀ x ∈ [(75, slotOf 1#8 76 0#104 0#8, 76), (75, slotOf 5#8 79 0#104 0#8, 79), (79, slotOf 1#8 80 0#104 0#8, 80),
        (79, slotOf 5#8 80 0#104 0#8, 80), (78, slotOf 1#8 82 0#104 0#8, 82), (78, slotOf 5#8 82 0#104 0#8, 82)],
      let s := sought .preroll x.1 auto x.2.1
      consumable s = true ∧ s.clock.endLine = none ∧ readsUpTo s x.2.2 := by
  unfold readsUpTo
  decide +kernel

/-- Line T of a seek with DAMPER's and two note tracks settled open and SHIFT under ON: two pedals ask, two notes are caught. -/
def catching : State :=
  let s := sought .preroll 79 false (slotOf 1#8 80 0#104 0#8)
  let fs := vset (vset (vset s.reading.filters 5 .opened) 33 .opened) 66 (.closing 1 79)
  { s with
    reading := { s.reading with filters := fs, history := [⟨79, ⟨560, 400⟩⟩] }
    pedals := ⟨s.pedals.damper, { s.pedals.shift with override := .on }⟩ }

theorem witness_GapsAreFilled_caught :
    let t := after .consumptionEvent catching
    consumable catching = true ∧ readsUpTo catching 80 ∧ expectedLine catching = catching.seek.target
      ∧ t.sched.timeline.map (fun e => (e.lane, e.due))
        = [(.pedal .damper, 80 * 256), (.key 27, 80 * 256), (.key 60, 80 * 256)]
      ∧ (t.pedals.shift.state, t.pedals.shift.ownRequest) = (.waitingSlot, true) := by
  unfold readsUpTo
  decide +kernel

theorem witness_BreaksRestartTheRun :
    let s := withSlot .hold (slotOf 1#8 11 0#104 0#8) (at_ .ready 0 5)
    consumable s = true ∧ slotCheckOk (slotBytes s 0) = true ∧ expectedLine s + 5 ≤ slotNumber (slotBytes s 0)
      ∧ slotEnd (slotControl s 0) = false ∧ s.clock.endLine = none := by decide +kernel

theorem witness_BreaksRestartTheRun_states :
    ∀ control ∈ [1#8, 5#8],
      (∀ st ∈ [RollState.leader, .ready, .playing, .starved, .stepping],
        let s := withSlot .hold (slotOf control 61 0#104 0#8) (at_ st 0 55)
        consumable s = true ∧ s.clock.endLine = none ∧ expectedLine s + 5 ≤ 61)
        ∧ (consumable (leading true 55 (slotOf control 61 0#104 0#8)) = true)
        ∧ ∀ n ∈ [79, 80, 81],
          consumable (sought .preroll 73 true (slotOf control n 0#104 0#8)) = true
            ∧ expectedLine (sought .preroll 73 true (slotOf control n 0#104 0#8)) + 5 ≤ n := by decide +kernel

/-- A break ends what stands before the line is read; at an empty preroll a pedal under ON asks for itself. -/
theorem witness_BreaksRestartTheRun_broken :
    let sounding := setKey 40 (fun r => { r with owners := 1 }) (withTrack (note .sounding) (at_ .playing 0 5))
    let lifted := setPedal .damper (fun r => { r with state := .hold, duty := 60, roll := .down, override := .on })
      (withEntry (entryOf (.lift .shift) .waiting) sounding)
    let sought := { lifted with clock := { lifted.clock with state := .preroll }, seek := { lifted.seek with target := 80 } }
    (takeBreak 61 lifted).sched.timeline = [] ∧ (track (takeBreak 61 lifted) 40).state = .silent
      ∧ ((keyRec (takeBreak 61 lifted) 40).owners, (keyRec (takeBreak 61 lifted) 40).offDue) = (0, true)
      ∧ ((takeBreak 61 lifted).pedals.damper.state, (takeBreak 61 lifted).pedals.damper.roll) = (.rest, .up)
      ∧ ((takeBreak 80 sought).pedals.damper.state, (takeBreak 80 sought).pedals.damper.roll) = (.waitingSlot, .up)
      ∧ (takeBreak 79 sought).pedals.damper.state = .rest := by decide +kernel

theorem witness_FiltersAndDebouncersMoveByTheTables :
    (2 ≠ 1 ∧ (⟨some 2, 2⟩ : Debouncer).candidate = some 2 ∧ (⟨some 2, 1⟩ : Debouncer).count + 1 < 3
      ∧ 3 ≤ (⟨some 2, 2⟩ : Debouncer).count + 1 ∧ (⟨some 4, 2⟩ : Debouncer).candidate ≠ some 2)
      ∧ (1 < 2 ∧ 1 + 1 = 2 ∧ 1 + 1 < 3) := by decide

theorem witness_HistoryKeepsTheLastEightLines :
    base.reading.history.length ≤ 8
      ∧ (List.replicate 8 (⟨5, ⟨120, 120⟩⟩ : LevelEntry)).length ≤ 8 := by decide

theorem witness_StageOneRampsTheLevel :
    settledTrack base 3 = false
      ∧ settledTrack { base with reading := { base.reading with filters := vset base.reading.filters 3 .opened } } 3 = true
      ∧ base.expr.w256.get .bass ≤ base.expr.wMax * 256 := by decide +kernel

/-- A line's samples move a filter and count a speck; the settled step tracks give the raw code that the debouncer takes. -/
theorem witness_StageOneRampsTheLevel_line :
    let filters := vset (vset (vset base.reading.filters 1 .opened) 98 (.closing 1 4)) 50 (.opening 1 5)
    let s := { base with reading := { base.reading with filters := filters, stepStable := 1 } }
    (takeSamples ⟨6, 0#104, .scanned⟩ s).reading.specks = 1
      ∧ vget (takeSamples ⟨6, 0#104, .scanned⟩ s).reading.filters 50 .opened = .closed
      ∧ (shadeLine 6 s).expr.b = ⟨2, 2⟩ ∧ (shadeLine 6 base).expr.b = ⟨0, 0⟩ := by decide +kernel

theorem witness_StrikesAreTrimmedAndVoiced :
    (43 < Expression.reset.splitKey ∧ Expression.reset.splitKey ≤ 44)
      ∧ (1023 ≤ 1023 ∧ Voicing.builtIn.e0 + 100 ≤ Voicing.builtIn.e1 ∧ Voicing.builtIn.tLoud ≤ Voicing.builtIn.tSoft) := by
  decide

theorem witness_StrikesAreTrimmedAndVoiced_created :
    let silenced := vset base.tables.live.voicing 40 { Voicing.builtIn with mute := true }
    let muted := { base with tables := { base.tables with live := { base.tables.live with voicing := silenced } } }
    (liveVoicing muted (chooseKey muted 40)).mute = true ∧ (liveVoicing base (chooseKey base 40)).mute = false
      ∧ (track base 40).state = .silent ∧ (track (withTrack (note .sounding) base) 40).state ≠ .silent
      ∧ base.ownersOk ∧ (setKey 40 (fun r => { r with owners := 1 }) (withTrack (note .sounding) base)).ownersOk := by
  decide +kernel

theorem witness_StrikesAreTrimmedAndVoiced_events :
    let heard := { base with reading := { base.reading with history := [⟨5, ⟨1, 2⟩⟩, ⟨6, ⟨3, 4⟩⟩] } }
    (∃ x ∈ heard.reading.history, x.line = 6) ∧ (heard.reading.history.map (·.line)).Nodup
      ∧ (track base 40).openNote = none
      ∧ ∀ st ∈ [TrackState.pending, .sounding, .interrupted],
          (track (withTrack (note st) base) 40).openNote = some 7 ∧ (track (withTrack (note st) base) 40).inForce = some 7 := by
  decide +kernel

/-! ### Hypotheses met: the roll -/

theorem witness_TransposeClampsTheFigure :
    (0 ≤ (81 : Int) + 6 ∧ (81 : Int) + 6 ≤ 87) ∧ 87 < (82 : Int) + 6 ∧ (5 : Int) + -6 < 0 := by decide

theorem witness_LoadStartsTheRoll :
    ((at_ .paused 0 5).clock.state ≠ .empty ∧ (at_ .paused 0 5).clock.state ≠ .ended)
      ∧ (base.clock.state = .empty ∧ base.intake.attached = false) ∧ (at_ .ended 0 5).clock.state = .ended
      ∧ (withSlot .hold [] base).intake.attached = true
      ∧ (withSlot .hold (slotOf 1#8 6 0#104 0#8) (at_ .ended 0 5)).ringOk
      ∧ slotOwn (slotControl (withSlot .hold (slotOf 1#8 6 0#104 0#8) (at_ .ended 0 5)) 0) = true := by decide +kernel

theorem witness_PlayActsByTheState :
    (at_ .ready 1279 5).clock.state ∈ [RollState.ready, .paused] ∧ (at_ .seeking 0 5).clock.state ∉ [RollState.ready, .paused, .playing]
      ∧ (at_ .ready 1279 5).clock.p < 5 * 256 ∧ 5 * 256 ≤ (at_ .paused 1280 5).clock.p
      ∧ ({ at_ .ready 1280 5 with clock := { (at_ .ready 1280 5).clock with endLine := some 5 } } : State).clock.endLine = some 5
      ∧ (base.pedals.get .damper).state = .rest ∧ { base.pedals.damper with override := .on }.target = .down := by decide

theorem witness_PauseFreezesPlay :
    (at_ .starved 0 5).clock.state ∈ [RollState.playing, .starved] ∧ (at_ .paused 0 5).clock.state = .paused
      ∧ (at_ .ended 0 5).clock.state ∉ [RollState.playing, .starved, .paused]
      ∧ (at_ .playing 0 5).ownersOk
      ∧ (withEntry (entryOf (.strike (strike40 false)) .released) (at_ .playing 0 5)).sched.timeline.length = 1 := by decide +kernel

/-- A sounding track is marked: its release turns void, its key has no owner left and its OFF is to be recorded. -/
theorem witness_PauseFreezesPlay_marked :
    let s := withEntry (entryOf (.release ⟨40, 40, 7, false⟩) .waiting)
      (setKey 40 (fun r => { r with owners := 1 }) (withTrack (note .sounding) (at_ .playing 0 5)))
    let t := markInterrupted 40 s
    (track s 40).sounds = true ∧ marksRelease s ⟨40, 40, 7, false⟩ = true ∧ marksRelease s ⟨40, 40, 6, false⟩ = false
      ∧ t.sched.timeline.map (·.body) = [.release ⟨40, 40, 7, true⟩]
      ∧ ((keyRec t 40).owners, (keyRec t 40).offDue) = (0, true)
      ∧ (keyRec (after (.pause .c) s) 40).offDue = true ∧ (keyRec (clearSchedule s) 40).offDue = true
      ∧ (track base 40).sounds = false := by decide +kernel

theorem witness_StopReturnsToEmpty :
    (withSlot .hold (slotOf 1#8 6 0#104 0#8) (at_ .playing 0 5)).ringOk
      ∧ slotOwn (slotControl (withSlot .hold (slotOf 1#8 6 0#104 0#8) (at_ .playing 0 5)) 0) = true := by decide +kernel

theorem witness_TempoSetsTheRate : base.directiveOk ∧ commandedRate base.clock.vNom16 1000 = base.clock.vCmd16 := by decide +kernel

theorem witness_StepModeIsEnteredAndLeft :
    (at_ .ready 0 5).clock.state ∈ [RollState.ready, .paused] ∧ (at_ .stepping 0 5).clock.state = .stepping
      ∧ (at_ .ended 0 5).clock.state ∉ [RollState.ready, .paused, .stepping] ∧ (at_ .ended 0 5).clock.state ≠ .stepping := by
  decide

/-- A state in STEPPING whose cue 0, on line 70, is armed. -/
def stepping (action : CueAction) : State := withCue action (at_ .stepping (69 * 256) 100)

theorem witness_StepMovesByWholeLines :
    (¬(1 ≤ 0 ∧ 0 ≤ 64) ∧ ¬(1 ≤ 65 ∧ 65 ≤ 64)) ∧ crossings (at_ .stepping 100 5) 100 (min (100 + 256 * 64) (5 * 256)) = []
      ∧ crossings (stepping .stop) (69 * 256) (min (69 * 256 + 256 * 1) (100 * 256)) = [0]
      ∧ (cueAt (stepping .stop) 0).action = .stop ∧ (cueAt (stepping .loop) 0).action = .loop
      ∧ crossings (stepping .loop) (69 * 256) (min (69 * 256 + 256 * 64) (100 * 256)) = [0] := by decide +kernel

theorem witness_StepMovesByWholeLines_end :
    let s := at_ .stepping 100 5
    let ending := fun e => { s with clock := { s.clock with endLine := some e } }
    crossings (ending 5) 100 (min (100 + 256 * 5) (5 * 256)) = [] ∧ 5 * 256 ≤ min (100 + 256 * 5) (5 * 256)
      ∧ min (100 + 256 * 4) (5 * 256) < 5 * 256 := by decide +kernel

/-- `s` with cue 1, on line 71, live and armed as well. -/
def withSecondCue (action : CueAction) (s : State) : State :=
  { s with cues := { s.cues with live := vset s.cues.live 1 ⟨71, 80, action, false, true, true, 65535⟩ } }

theorem witness_StepMovesByWholeLines_notices :
    crossings (stepping .notice) (69 * 256) (min (69 * 256 + 256 * 1) (100 * 256)) = [0] ++ []
      ∧ (cueAt (stepping .notice) 0).action = .notice
      ∧ ∀ a ∈ [CueAction.stop, .loop],
          crossings (withSecondCue a (stepping .notice)) (69 * 256) (min (69 * 256 + 256 * 2) (100 * 256)) = [0] ++ [1]
            ∧ (cueAt (withSecondCue a (stepping .notice)) 1).action = a := by decide +kernel

theorem witness_SeekIsTaken :
    base.clock.state ∈ [RollState.empty, .leader] ∧ (at_ .ended 0 5).clock.state ∉ [RollState.empty, .leader]
      ∧ (withSlot .hold (slotOf 1#8 6 0#104 0#8) (at_ .ended 0 5)).ringOk := by decide +kernel

/-- The run of owned slots that a SEEK returns: one slot here. -/
theorem witness_SeekIsTaken_run :
    let s := withSlot .hold (slotOf 1#8 6 0#104 0#8) (at_ .ended 0 5)
    let t := after (.seek .c 100#32 0#8) s
    slotOwn (slotControl s 0) = true ∧ slotOwn (slotControl s 1) = false ∧ t.intake.index = 1
      ∧ slotOwn (slotControl t 0) = false := by decide +kernel

theorem witness_StarvationAndEndOfRollTakePlace :
    (at_ .playing 100 5).clock.endLine ≠ some 5 ∧ clearTo (at_ .playing 100 5) (5 * 256) = true
      ∧ crossings (at_ .playing 100 5) 100 (5 * 256) = [] ∧ (at_ .playing 1280 5).clock.p = 5 * 256
      ∧ clearTo { at_ .playing 100 5 with clock := { (at_ .playing 100 5).clock with endLine := some 5 } } (5 * 256) = true
      ∧ (at_ .stepping 1280 5).clock.state ∈ [RollState.playing, .stepping] := by decide +kernel

/-- A state in PLAYING before its last line, which has an armed cue, and is the end line where `e` says so. -/
def cuedEnd (action : CueAction) (e : Option Nat) : State :=
  let s := withCue action (at_ .playing (69 * 256) 70)
  { s with clock := { s.clock with endLine := e } }

theorem witness_StarvationAndEndOfRollTakePlace_cues :
    ∀ a ∈ [CueAction.notice, .stop, .loop], ∀ e ∈ [none, some 70],
      clearTo (cuedEnd a e) (70 * 256) = true ∧ crossings (cuedEnd a e) (69 * 256) (70 * 256) = [0]
        ∧ (cueAt (cuedEnd a e) 0).action = a := by decide +kernel

theorem witness_StarvationAndEndOfRollTakePlace_apart :
    clearTo (withCue .notice (at_ .playing (69 * 256) 71)) (71 * 256) = false
      ∧ (cuedEnd .notice (some 71)).clock.nIn < 71 ∧ 69 * 256 < (at_ .playing (69 * 256 + 1) 70).clock.p
      ∧ (at_ .stepping 0 5).clock.p ≠ 5 * 256 ∧ 5 * 256 < (at_ .playing 1281 5).clock.p := by decide +kernel

theorem witness_CrossedCuesFire :
    ∀ a ∈ [CueAction.notice, .stop, .loop],
      let s := withCue a (withSlot .hold [] (at_ .playing (69 * 256) 100))
      crossings s s.clock.p (70 * 256) = [0] ∧ clearTo s (70 * 256) = true ∧ s.ringOk ∧ (cueAt s 0).line = 70
        ∧ 70 * 256 ≤ s.clock.nIn * 256 ∧ (cueAt s 0).action = a ∧ (cueAt s 0).fires = true
        ∧ s.positionOk := by decide +kernel

/-- The cue's line is N_in, or the end line: the cue fires, and play starves or ends there. -/
theorem witness_CrossedCuesFire_boundary :
    let s := fun e =>
      let s := withCue .notice (withSlot .hold [] (at_ .playing (69 * 256) 70))
      { s with clock := { s.clock with endLine := e } }
    ∀ x ∈ [(none, RollState.starved), (some 70, .ended)],
      crossings (s x.1) (69 * 256) (70 * 256) = [0] ∧ clearTo (s x.1) (70 * 256) = true ∧ (s x.1).positionOk
        ∧ (s x.1).ringOk ∧ (after .cueFire (s x.1)).clock.state = x.2
        ∧ (after .cueFire (s x.1)).cues.last = some 0 := by decide +kernel

theorem witness_CrossedCuesFire_apart :
    (at_ .paused 0 5).clock.state ≠ .playing
      ∧ (∀ i, i < 32 → (cueAt (withCue .stop (at_ .playing (70 * 256) 100)) i).fires = true →
          (cueAt (withCue .stop (at_ .playing (70 * 256) 100)) i).line * 256 ≤ 70 * 256)
      ∧ clearTo (withEntry { entryOf (.drop .damper) .waiting with releasePos := 69 * 256 + 1 }
          (withCue .stop (at_ .playing (69 * 256) 100))) (70 * 256) = false := by decide +kernel

theorem witness_CrossedCuesFire_actions :
    (cueAt (stepping .notice) 0).action = .notice ∧ (cueAt (stepping .stop) 0).action = .stop
      ∧ (stepping .stop).clock.state ∈ [RollState.playing, .starved, .stepping]
      ∧ (at_ .ready 0 5).clock.state ∉ [RollState.playing, .starved, .stepping]
      ∧ base.clock.state ∈ [RollState.empty, .leader] ∧ (stepping .loop).clock.state ∉ [RollState.empty, .leader] := by
  decide +kernel

/-- A state in PLAYING with one WAITING entry at P. -/
def handing (b : EntryBody) : State := withEntry (entryOf b .waiting) (at_ .playing 1000 5)

theorem witness_EligibleEntriesAreHandedOn :
    ((handing (.strike (strike40 false))).sched.timeline.map (·.seq)).Nodup
      ∧ entryOf (.strike (strike40 false)) .waiting ∈ (refreshHeads (handing (.strike (strike40 false)))).sched.timeline
      ∧ eligible (refreshHeads (handing (.strike (strike40 false)))) (entryOf (.strike (strike40 false)) .waiting) = true
      ∧ (keyRec (handing (.strike (strike40 false))) 40).owners = 0 := by decide +kernel

theorem witness_EligibleEntriesAreHandedOn_restrike :
    let s := setKey 40 (fun r => { r with owners := 1 }) (handing (.strike (strike40 false)))
    eligible (refreshHeads s) (entryOf (.strike (strike40 false)) .waiting) = true ∧ 1 ≤ (keyRec s 40).owners
      ∧ s.sched.restrikes < 65535 := by decide +kernel

theorem witness_EligibleEntriesAreHandedOn_others :
    eligible (refreshHeads (handing (.release ⟨40, 40, 7, true⟩))) (entryOf (.release ⟨40, 40, 7, true⟩) .waiting) = true
      ∧ eligible (refreshHeads (handing (.drop .shift))) (entryOf (.drop .shift) .waiting) = true
      ∧ eligible (refreshHeads (handing (.lift .damper))) (entryOf (.lift .damper) .waiting) = true
      ∧ ((handing (.lift .damper)).pedals.get .damper).state = .rest
      ∧ ((handing (.lift .damper)).pedals.get .damper).override ≠ .off := by decide +kernel

theorem witness_EligibleEntriesAreHandedOn_cancelled :
    let s := setPedal .damper (fun r => { r with override := .off, state := .hold }) (handing (.lift .damper))
    eligible (refreshHeads s) (entryOf (.lift .damper) .waiting) = true ∧ (s.pedals.get .damper).override = .off
      ∧ (s.pedals.get .damper).state ≠ .rest := by decide +kernel

/-- Two BLOCKED entries of key 40 whose last issue is `last`: the first becomes head, the second stays behind it. -/
def queued (last : LastIssued) (b : EntryBody) : State :=
  let s := setKey 40 (fun r => { r with last := last, lastPos := some 900, lastPw10 := 210 }) (at_ .playing 1000 5)
  { s with sched := { s.sched with timeline := [entryOf b .blocked, { entryOf b .blocked with seq := 1 }] } }

theorem witness_EligibleEntriesAreHandedOn_order :
    (refreshHeads (queued .release (.strike (strike40 false)))).sched.timeline.map (fun e => (e.state, e.releasePos))
        = [(.waiting, 900 + (400 * 7680 + 624) / 625), (.blocked, 1000)]
      ∧ (refreshHeads (queued .strike (.release ⟨40, 40, 7, false⟩))).sched.timeline.map (fun e => (e.state, e.releasePos))
        = [(.waiting, 900 + ((210 + 500) * 7680 + 6249) / 6250), (.blocked, 1000)]
      ∧ (refreshHeads (queued .none (.drop .damper))).sched.timeline.map (·.state) = [.waiting, .blocked] := by decide +kernel

/-! ### Hypotheses met: pedals, drive, service and tables -/

theorem witness_PedalOverrideMovesThePedal :
    2 ≤ (2#8).toNat ∧ 3 ≤ (3#8).toNat ∧ (1#8).toNat < 2 ∧ (2#8).toNat < 3 ∧ (base.pedals.get .shift).state = .rest
      ∧ (base.pedals.get .shift).roll = .up ∧ base.sched.timeline = []
      ∧ { base.pedals.shift with state := .hold, roll := .down }.state ≠ .rest := by decide

theorem witness_PedalOverrideMovesThePedal_build :
    let s := setPedal .damper (fun r => { r with state := .waitingSlot, override := .on }) base
    (base.pedals.get .damper).override ≠ .on ∧ (s.pedals.get .damper).override = .on
      ∧ (s.pedals.get .damper).state = .waitingSlot ∧ s.drive.busy.length < s.tables.live.drive.k
      ∧ place s (pedalOutput .damper) ≠ .unused ∧ (base.pedals.get .damper).state ≠ .waitingSlot := by decide +kernel

theorem witness_FrameBuildSendsEveryChainAFrame :
    base.drive.busy.length ≤ base.tables.live.drive.k ∧ (chainRec base 3).state ≠ .online := by decide +kernel

/-- `base` with chain 1 ONLINE. -/
def driven : State := setChain 1 (fun r => { r with state := .online }) base

theorem witness_GrantedStrikesIssueOrAreDropped :
    0 < freeSlots base ∧ place base 40 ≠ .unused ∧ outputOnline driven 40 = true ∧ outputOnline base 40 = false
      ∧ 4 * base.clock.vCmd16 < 31721 - 1000 ∧ 31720 - 1000 ≤ 4 * base.clock.vCmd16 := by decide +kernel

/-- A chain 1 ONLINE, key 40 held by its owner below the heat limit, which the coming build reaches. -/
def warming : State :=
  let s := setChannel 40 (fun c => { c with state := .hold, heat := 99 })
    (setKey 40 (fun r => { r with owners := 1 }) (withTrack (note .sounding) driven))
  let d := { s.tables.live.drive with cooling := 1, hLim := 100 }
  { s with tables := { s.tables with live := { s.tables.live with drive := d } } }

theorem witness_FrameBuildSendsEveryChainAFrame_thermal :
    let t := after .frameBuild warming
    (outputHeat warming 40, t.tables.live.drive.hLim) = (99, 100) ∧ 100 ≤ outputHeat t 40
      ∧ (t.ports.get .c).pending &&& Attention.thermal.set ≠ 0#16 := by decide +kernel

theorem witness_FrameBuildSendsEveryChainAFrame_slots :
    place driven 40 = .wired 1 16 ∧ (chainRec driven 1).state = .online ∧ (∀ o, o < 40 → place driven o ≠ .wired 1 16)
      ∧ (∀ o, o < 90 → place driven o ≠ .wired 3 23) ∧ (channel driven 40).state = .off
      ∧ (channel warming 40).state = .hold := by decide +kernel

/-- Two strikes that stand to be granted in PLAYING; the second has the higher level, and so comes first. -/
def granting : State :=
  let other := { strike40 false with track := 41, key := 41, level := 600 }
  { at_ .playing 1000 5 with
    sched :=
      { base.sched with
        timeline := [entryOf (.strike (strike40 false)) .released, { entryOf (.strike other) .released with seq := 1 }] } }

/-- Stage 4: a release and a drop that stand issue in due order, an idle channel goes OFF, a held one and the running test
pulse stay.  Stage 5: the grant order. -/
theorem witness_FrameBuildSendsEveryChainAFrame_stages :
    let issuing := withEntry (entryOf (.release ⟨40, 40, 7, false⟩) .released)
      { warming with clock := { warming.clock with state := .playing, p := 1000 } }
    let tested := setChannel 40 (fun c => { c with state := .pulse, test := true })
      { base with test := ⟨.running, 40, 100, false⟩ }
    issuing.sched.timeline.filter Entry.issues ≠ [] ∧ base.sched.timeline.filter Entry.issues = []
      ∧ (stageReleases [] issuing).sched.timeline = []
      ∧ (channel (stageReleases [] issuing) 40).state = .off ∧ (channel (stageReleases [] warming) 40).state = .hold
      ∧ (channel (stageReleases [] tested) 40).state = .pulse
      ∧ waitingStrikes granting = granting.sched.timeline.reverse
      ∧ (stageGrants granting).sched.timeline = [] ∧ (stageGrants { granting with clock := base.clock }).sched.timeline ≠ [] :=
  by decide +kernel

/-- The model's choice of assumption log 35: the drop of stage 4 makes the next lift head and already due, the lift is
granted at stage 5, and its kick (R132, 255 as built in) stands in the frame of that build; a further drop already due
cancels the lift at the same stage 4 (R131). -/
theorem test_lift_due_behind_a_drop_kicks_at_the_same_build :
    let s := fun rest : List Entry =>
      let s := setPedal .damper (fun r => { r with state := .hold, roll := .down, duty := 110 }) (at_ .playing 1000 5)
      { s with sched := { s.sched with
        timeline := entryOf (.drop .damper) .released :: { entryOf (.lift .damper) .blocked with seq := 1 } :: rest } }
    let u := fun rest => stageGrants (stageReleases [] (s rest))
    ((u []).pedals.damper.state, outputSlot (u []) 88, (u []).sched.timeline) = (.kick, .hold 255, [])
      ∧ (let v := u [{ entryOf (.drop .damper) .blocked with seq := 2 }];
        (v.pedals.damper.state, outputSlot v 88, v.sched.timeline) = (.rest, .off, [])) := by decide +kernel

/-- `base` with key 40 mapped UNUSED. -/
def unmapped : State :=
  let map := vset base.tables.live.map 40 .unused
  { base with tables := { base.tables with live := { base.tables.live with map := map } } }

/-- A changed map cuts the pulse of a key that moved, leaves one in HOLD, puts one newly UNUSED OFF, and takes the slot of
the kick of a pedal newly UNUSED. -/
theorem witness_FrameBuildSendsEveryChainAFrame_map :
    let map := vset (vset base.tables.live.map 42 .unused) 88 .unused
    let built := vset (vset base.tables.live.map 40 .unused) 41 .unused
    let s := { base with
      tables := { base.tables with live := { base.tables.live with map := map } }
      drive := { base.drive with builtMap := built, busy := [⟨.strike 40, 9⟩, ⟨.kick .damper, 9⟩, ⟨.strike 43, 9⟩] } }
    let s := setChannel 40 (fun c => { c with state := .pulse, heat := 7 })
      (setChannel 41 (fun c => { c with state := .hold }) (setChannel 42 (fun c => { c with state := .hold }) s))
    let t := takeMap s
    ((channel t 40).state, (channel t 40).heat) = (.off, 7) ∧ (channel t 41).state = .hold ∧ (channel t 42).state = .off
      ∧ t.drive.busy = [⟨.strike 43, 9⟩] ∧ t.drive.builtMap = map ∧ takeMap t = t := by decide +kernel

/-- The build at which a strike's slot frees: a pulse started and one suppressed. -/
theorem witness_GrantedStrikesIssueOrAreDropped_busy :
    let e := entryOf (.strike (strike40 false)) .released
    (offerStrike (withEntry e driven) e).drive.busy = [⟨.strike 40, driven.timing.build + 3⟩]
      ∧ (offerStrike (withEntry e base) e).drive.busy = [⟨.suppressed 40, base.timing.build + 3⟩] := by decide +kernel

/-- A strike on an UNUSED output with every slot busy, and one that finds no slot free. -/
theorem witness_GrantedStrikesIssueOrAreDropped_slots :
    let full := fun s : State => { s with drive := { s.drive with busy := List.replicate 16 ⟨.strike 41, 9⟩ } }
    let e := entryOf (.strike (strike40 false)) .released
    place (full unmapped) 40 = .unused ∧ freeSlots (full unmapped) = 0
      ∧ (keyRec (offerStrike (withEntry e (full unmapped)) e) 40).owners = 1
      ∧ place (full base) 40 ≠ .unused ∧ freeSlots (full base) = 0
      ∧ offerStrike (withEntry e (full base)) e = withEntry e (full base) := by decide +kernel

/-- A stale strike with its paired release behind it and another's release: the first turns void, the note finishes. -/
theorem witness_GrantedStrikesIssueOrAreDropped_stale :
    let e := entryOf (.strike (strike40 false)) .released
    let paired := { entryOf (.release ⟨40, 40, 0, false⟩) .blocked with seq := 1 }
    let other := { entryOf (.release ⟨41, 41, 7, false⟩) .blocked with seq := 2 }
    let s := withTrack ⟨.pending, true, 40, some 0, some 0, 0⟩ (at_ .playing 40000 200)
    let t := offerStrike { s with sched := { s.sched with timeline := [e, paired, other] } } e
    4 * s.clock.vCmd16 < s.clock.p - e.due
      ∧ t.sched.timeline = [{ paired with body := .release ⟨40, 40, 0, true⟩ }, other]
      ∧ (track t 40).state = .silent ∧ (track t 40).openNote = none ∧ (track s 40).inForce = some e.seq
      ∧ (track (withTrack (note .pending) s) 40).inForce ≠ some e.seq := by decide +kernel

/-- A caught strike that P has reached waits in READY, another strike does not, and in PLAYING neither does. -/
theorem witness_GrantedStrikesIssueOrAreDropped_caught :
    let s := fun st caught => withEntry (entryOf (.strike { strike40 false with caught := caught }) .waiting) (at_ st 1000 5)
    let held := fun t : State => t.sched.timeline.map fun e =>
      match e.body with
      | .strike b => b.held
      | .release _ | .lift _ | .drop _ => 0
    held (accruePause (s .ready true)) = [1] ∧ held (accruePause (s .ready false)) = [0]
      ∧ held (accruePause (s .playing true)) = [0] := by decide +kernel

/-- Strikes in PAUSED at P: one whose due position was passed, one due at P that was handed on and one that was not. -/
theorem witness_GrantedStrikesIssueOrAreDropped_held :
    let s := fun due st => withEntry { entryOf (.strike (strike40 false)) st with due := due } (at_ .paused 1000 5)
    let held := fun t : State => t.sched.timeline.map fun e =>
      match e.body with
      | .strike b => b.held
      | .release _ | .lift _ | .drop _ => 0
    held (accruePause (s 999 .waiting)) = [1] ∧ held (accruePause (s 1000 .released)) = [1]
      ∧ held (accruePause (s 1000 .waiting)) = [0] ∧ held (after .frameBuild (s 999 .waiting)) = [1]
      ∧ 1280 ≤ base.clock.vCmd16 ∧ 4 * base.clock.vCmd16 < 2 * base.clock.vCmd16 * 251 / 125 := by decide +kernel

theorem witness_GrantedStrikesIssueOrAreDropped_owners :
    let s := withTrack (note .pending) base
    (track s 40).state = .pending ∧ (track s 40).key = 40 ∧ s.ownersOk ∧ (track warming 40).sounds = true
      ∧ (track warming 40).inForce = some 7 ∧ warming.ownersOk := by decide +kernel

/-- A restrike that waits on the OFF of key 40. -/
def restriking : State :=
  withEntry (entryOf (.strike { strike40 true with offPending := true }) .blocked) (at_ .playing 1000 5)

theorem witness_GrantedStrikesIssueOrAreDropped_offs :
    (keyRec restriking 40).countdown = 0 ∧ (keyRec restriking 40).offDue = false
      ∧ (restrikeOff restriking 40).sched.timeline.map (·.state) = [.waiting]
      ∧ (keyRec (setKey 40 (fun r => { r with offDue := true }) restriking) 40).offDue = true := by decide +kernel

theorem witness_EchoesAreComparedWithTheFrameSent :
    let s := setChain 1 (fun r => { r with lastSent := some (7#8, 9#8) }) base
    (chainRec s 1).echo = .none ∧ (chainRec s 1).lastSent = some (7#8, 9#8)
      ∧ (chainRec base 1).lastSent ≠ some (7#8, 9#8)
      ∧ (chainRec (setChain 1 (fun r => { r with echo := .good }) s) 1).echo ≠ .none := by decide +kernel

/-- Chain 1 in a state with its runs at the edge and an echo result. -/
def judged (st : ChainState) (echo : EchoResult) : State :=
  setChain 1 (fun r => { r with state := st, goodRun := 7, badRun := 2, echo := echo }) warming

theorem witness_EchoesAreComparedWithTheFrameSent_judged :
    (chainRec (judgeEcho (judged .probing .good) 1) 1).state = .online
      ∧ (track (judgeEcho (judged .probing .good) 1) 40).state = .interrupted
      ∧ (chainRec (judgeEcho (judged .probing .none) 1) 1).goodRun = 0
      ∧ (chainRec (judgeEcho (judged .online .wrong) 1) 1).state = .faulted
      ∧ (channel (judgeEcho (judged .online .wrong) 1) 40).state = .off
      ∧ (chainRec (judgeEcho (judged .online .good) 1) 1).badRun = 0
      ∧ judgeEcho (judged .faulted .good) 1 = judged .faulted .good := by decide +kernel

/-- As chain 1 comes ONLINE the release of a track sounding on it turns void and the key's OFF is to be recorded. -/
theorem witness_EchoesAreComparedWithTheFrameSent_marked :
    let s := withEntry (entryOf (.release ⟨40, 40, 7, false⟩) .waiting) (judged .probing .good)
    let t := judgeEcho s 1
    s.ownersOk ∧ marksRelease s ⟨40, 40, 7, false⟩ = true
      ∧ t.sched.timeline.map (·.body) = [.release ⟨40, 40, 7, true⟩]
      ∧ ((keyRec t 40).owners, (keyRec t 40).offDue) = (0, true) := by decide +kernel

theorem witness_RestartChainActsByTheState :
    4 ≤ (4#8).toNat ∧ (3#8).toNat < 4 ∧ (chainRec driven 1).state = .online ∧ (chainRec base 3).state ≠ .online := by
  decide +kernel

theorem witness_FrameCrcStartsTheCheck :
    4 ≤ (4#8).toNat ∧ (0#8).toNat = 0 ∧ (3#8).toNat < 4 ∧ 1 ≤ (255#8).toNat := by decide

theorem witness_TestPulseMakesItsTestsInOrder :
    (∃ chain channel, place driven 47 = .wired chain channel ∧ (chainRec driven chain).state = .online)
      ∧ driven.test.phase = .none ∧ driven.clock.state ∈ [RollState.empty, .paused]
      ∧ ((47#8).toNat < 88 ∧ 1 ≤ (800#16).toNat ∧ (800#16).toNat ≤ 800)
      ∧ ¬((88#8).toNat < 88) ∧ ¬((801#16).toNat ≤ 800) ∧ (at_ .ready 0 5).clock.state ∉ [RollState.empty, .paused]
      ∧ (⟨.waiting, 47, 800, false⟩ : TestPulse).phase ≠ .none :=
  ⟨⟨1, 23, by decide +kernel⟩, by decide +kernel⟩

/-- A test pulse on output 40, whose chain is ONLINE. -/
def testing (phase : TestPhase) (moved : Bool) : State := { driven with test := ⟨phase, 40, 800, moved⟩ }

theorem witness_TestPulseMakesItsTestsInOrder_granted :
    (∃ chain j, place (testing .waiting false) 40 = .wired chain j ∧ (chainRec (testing .waiting false) chain).state = .online)
      ∧ driven.drive.busy.length < driven.tables.live.drive.k
      ∧ (offerTest (testing .waiting false)).test.phase = .running
      ∧ (endMovedTest (testing .running true)).test.phase = .none ∧ (testing .running false).test.moved = false :=
  ⟨⟨1, 16, by decide +kernel⟩, by decide +kernel⟩

/-- A test pulse that runs on a moved output is cut with its slot, one that waits is withdrawn, at the next build too. -/
theorem witness_TestPulseMakesItsTestsInOrder_moved :
    let s := setBusy (fun _ => [⟨.test 40, 9⟩, ⟨.strike 41, 9⟩])
      (setChannel 40 (fun c => { c with state := .pulse, test := true }) (testing .running true))
    (channel (endMovedTest s) 40).state = .off ∧ (endMovedTest s).drive.busy = [⟨.strike 41, 9⟩]
      ∧ (endMovedTest (testing .waiting true)).test.phase = .none
      ∧ (after .frameBuild (testing .waiting true)).test.phase = .none := by decide +kernel

/-- The channel of key 40 in a pulse that has run by the next build. -/
def pulsing (test : Bool) : State :=
  setChannel 40 (fun c => { c with state := .pulse, pw10 := 100, start := 0, test := test }) base

theorem witness_BuildPartsActOnTheItemDue :
    (keyRec base 40).countdown ≠ 1 ∧ (keyRec (setKey 40 (fun r => { r with countdown := 1 }) base) 40).countdown = 1
      ∧ (channel base 40).runOut (base.timing.build + 1) = false
      ∧ (channel (pulsing true) 40).runOut (base.timing.build + 1) = true
      ∧ (channel (pulsing false) 40).test = false ∧ (channel (pulsing true) 40).test = true := by decide +kernel

theorem witness_BuildPartsActOnTheItemDue_pedals :
    let kick := { PedalRec.reset.granted LiftFigures.builtIn with countdown := 1 }
    (kick.state = .kick ∧ kick.stepped = false ∧ kick.countdown ≤ 1)
      ∧ kick.figures.holdDuty + kick.figures.easeStep < kick.figures.kickDuty
      ∧ { kick.kickEnds with countdown := 1 }.state = .ease
      ∧ kick.figures.holdDuty + kick.figures.easeStep < { kick.kickEnds with countdown := 1 }.duty
      ∧ (PedalRec.reset.granted ⟨100, 60, 8, 5, 110⟩).figures.kickDuty ≤ 110 + 8
      ∧ ¬(PedalRec.reset.state = .kick) ∧ 118 ≤ kick.figures.holdDuty + kick.figures.easeStep := by decide

theorem witness_BuildPartsActOnTheItemDue_check :
    base.check.left ≠ 1 ∧ (⟨3, 1, 0xFFFF#16, 0#16, false⟩ : FrameCheck).left = 1 := by decide

/-- A frame of the checked chain that is not the last: fed, and one frame fewer is left. -/
theorem witness_BuildPartsActOnTheItemDue_frames :
    let s := { base with check := ⟨3, 2, 0xFFFF#16, 0#16, false⟩ }
    let t := after .frameBuild s
    (t.check.left, t.check.result, t.check.done) = (1, 0#16, false)
      ∧ t.check.register = crcBytes 0xFFFF#16 (chainRec t 3).wire
      ∧ (after .frameBuild t).check.left = 0 ∧ (after .frameBuild t).check.done = true := by decide +kernel

/-- Of output 40's slots the one whose time has come frees, one whose time has not come and another output's stay; a
kick's slot frees with its pedal out of KICK. -/
theorem witness_BuildPartsActOnTheItemDue_slots :
    let slots : List BusySlot := [⟨.strike 40, 1⟩, ⟨.strike 40, 2⟩, ⟨.strike 41, 1⟩, ⟨.kick .damper, 9⟩]
    let s := { base with drive := { base.drive with busy := slots } }
    (after (.slotFree 40) s).drive.busy = slots.drop 1 ∧ (after (.slotFree 42) s).drive.busy = slots
      ∧ (after (.slotFree 88) s).drive.busy = slots.take 3 := by decide +kernel

/-- Stages 2 and 3: a countdown falls, a pulse that has run ends, a test pulse with its phase, one that has not run stays, and
a kick that ends gives up its slot. -/
theorem witness_BuildPartsActOnTheItemDue_stages :
    let one := { base with timing := { base.timing with build := 1 } }
    let tested := { pulsing true with test := ⟨.running, 40, 100, false⟩, timing := one.timing }
    let kicking := setPedal .damper (fun _ => { PedalRec.reset.granted LiftFigures.builtIn with countdown := 1 })
      { base with drive := { base.drive with busy := [⟨.kick .damper, 9⟩, ⟨.strike 41, 9⟩] } }
    (keyRec (stageCountdowns (setKey 40 (fun r => { r with countdown := 3 }) base)) 40).countdown = 2
      ∧ (channel (stageEnds { pulsing false with timing := one.timing }) 40).state = .hold
      ∧ (channel (stageEnds (pulsing false)) 40).state = .pulse
      ∧ (channel (stageEnds tested) 40).state = .off ∧ (stageEnds tested).test.phase = .none
      ∧ (stageEnds kicking).drive.busy = [⟨.strike 41, 9⟩]
      ∧ ((stageEnds kicking).pedals.get .damper).state = .ease := by decide +kernel

/-- `s` with a staged area that gives the built-in tables. -/
def staged (s : State) : State := writeBytes tableBase builtInArea s

theorem staged_area (s : State) : stagedArea (staged s) = builtInArea :=
  Laws.stagedArea_writeBytes s builtInArea Laws.builtInArea_length

theorem witness_ApplyTablesMakesTheStagedTablesLive :
    firstInvalid (stagedArea base) = some (1, 0) ∧ firstInvalid (stagedArea (staged base)) = none
      ∧ (decodeDrive (stagedArea (staged base))).k = base.tables.live.drive.k ∧ base.clock.state = .empty := by
  rw [staged_area]
  exact ⟨by decide +kernel, Laws.firstInvalid_builtInArea, by decide +kernel, rfl⟩

/-- A state in PLAYING with K at 9. -/
def nineSlots : State :=
  let s := at_ .playing 0 5
  { s with tables := { s.tables with live := { s.tables.live with drive := { s.tables.live.drive with k := 9 } } } }

theorem witness_ApplyTablesMakesTheStagedTablesLive_refused :
    firstInvalid (stagedArea (staged nineSlots)) = none
      ∧ (decodeDrive (stagedArea (staged nineSlots))).k ≠ nineSlots.tables.live.drive.k
      ∧ nineSlots.clock.state ∉ [RollState.empty, .ready, .paused, .ended] := by
  rw [staged_area]
  exact ⟨Laws.firstInvalid_builtInArea, by decide +kernel, by decide⟩

/-- A state in READY whose output 0 is mapped UNUSED. -/
def firstUnused : State :=
  let s := at_ .ready 0 5
  { s with tables := { s.tables with live := { s.tables.live with map := vset s.tables.live.map 0 .unused } } }

theorem witness_ApplyTablesMakesTheStagedTablesLive_moved :
    firstInvalid (stagedArea (staged firstUnused)) = none ∧ firstUnused.clock.state ≠ .empty
      ∧ (decodeTables (stagedArea (staged firstUnused))).map.toList.getD 0 .unused
        ≠ firstUnused.tables.live.map.toList.getD 0 .unused := by
  rw [staged_area]
  exact ⟨Laws.firstInvalid_builtInArea, by decide, by decide +kernel⟩

/-- A test pulse whose output the staged map moves: APPLY TABLES in EMPTY takes the map and marks it. -/
theorem witness_ApplyTablesMakesTheStagedTablesLive_test :
    let live := { base.tables.live with map := vset base.tables.live.map 0 .unused }
    let s := { base with test := ⟨.waiting, 0, 10, false⟩, tables := { base.tables with live := live } }
    firstInvalid (stagedArea (staged s)) = none ∧ s.clock.state = .empty ∧ s.test.phase ≠ .none
      ∧ (decodeTables (stagedArea (staged s))).map.toList.getD 0 .unused ≠ s.tables.live.map.toList.getD 0 .unused := by
  dsimp only
  rw [staged_area]
  exact ⟨Laws.firstInvalid_builtInArea, by decide, by decide, by decide +kernel⟩

theorem witness_StoresWriteAndVerifyTheImage :
    base.tables.link = .idle ∧ lineBytes { base with settings := [] } [] ≠ ([] : List Byte)
      ∧ ({ base with tables := { base.tables with link := .storing } } : State).tables.link = .storing
      ∧ lineBytes base [] = List.replicate 2440 0xFF#8 := by decide +kernel

theorem witness_SettingsLoadsEndWithTheImageOrTheDefaults :
    (base.tables.link = .idle ∧ base.clock.state = .empty ∧ base.drive.busy = []) ∧ State.reset.tables.link = .loading
      ∧ field (lineBytes base []) 0 2 ≠ 0x7288 := by decide +kernel

/-- A state in LOADING whose settings memory holds the image of the built-in tables. -/
def stored : State :=
  { State.reset with settings := Mem.writeBlock settingsFill [] 0 (settingsImage 4 builtInArea) }

theorem witness_SettingsLoadsEndWithTheImageOrTheDefaults_accepted :
    stored.tables.link = .loading ∧ imageAccepted true (lineBytes stored []) = true := by
  rw [Laws.lineBytes_writeBlock stored _ (Laws.settingsImage_length 4 builtInArea Laws.builtInArea_length) rfl]
  unfold imageAccepted
  dsimp only
  rw [Laws.settingsImage_drop, Laws.firstInvalid_builtInArea]
  exact ⟨rfl, by decide +kernel⟩

/-! ### Hypotheses met: the invariants -/

theorem witness_StepsKeepTheInvariants :
    (withSlot .hold (slotOf 1#8 6 0#104 0#8) (at_ .playing 0 5)).memoryOk
      ∧ (withSlot .hold (slotOf 1#8 6 0#104 0#8) (at_ .playing 0 5)).ringOk
      ∧ (withSlot .hold (slotOf 1#8 6 0#104 0#8) (at_ .playing 0 5)).ownedOk
      ∧ (at_ .playing 0 5).positionOk ∧ (at_ .playing 0 5).ratesOk ∧ base.directiveOk ∧ base.heatOk := by decide +kernel

end Sys2Proof.Tests
end

section
/-! PROOFS. The intake (02_scan_intake.md): what ATTACH RING takes, and when a slot passes its check. -/

namespace Sys2Proof.ScanIntake

open Sys2Proof Sys2Proof.Machine Sys2Proof.Laws

/-! ### The check byte of a slot (R30) -/

/-- `checkByte` starts the exclusive-or at 0x3C and takes every byte in turn. -/
theorem checkByte_eq_foldl (bytes : List Byte) : checkByte bytes = bytes.foldl (fun a b => a ^^^ b) 0x3C#8 := rfl

theorem slotCheckOk_iff (slot : List Byte) :
    slotCheckOk slot = true ↔ checkByte ((slot.drop 1).take 17) = slot.getD 18 0#8 := beq_iff_eq

/-- Settles O21: the check of a slot compares `checkByte` of its line number and image with its check byte. -/
theorem slotCheckIsTheExclusiveOr : Obligations.SlotCheckIsTheExclusiveOr := by
  intro slot _
  rw [slotCheckOk_iff, checkByte_eq_foldl]

/-! ### The tests of ATTACH RING (R25) -/

theorem exec_attachRing (p : Port) (base : BitVec 16) (q policy : Byte) (s : State) :
    exec (.attachRing p base q policy) s
      = request p (.attachRing p base q policy) (ownerAttach base.toNat q.toNat policy.toNat) s := rfl

theorem decodePolicy_of_le {code : Nat} (h : code ≤ 1) : decodePolicy code = some (if code = 0 then .hold else .halt) := by
  match code with
  | 0 => rfl
  | 1 => rfl

theorem decodePolicy_of_lt {code : Nat} (h : 1 < code) : decodePolicy code = none := by
  match code with
  | _ + 2 => rfl

/-- The figures with which R25 takes a ring. -/
def AttachInRange (base q policy : Nat) : Prop :=
  (16 ≤ q ∧ q ≤ 128) ∧ base % 4 = 0 ∧ base + 20 * q ≤ 0x0BC0 ∧ policy ≤ 1

/-- The range of R25 is the model's test of the ring together with a policy code that names a policy. -/
theorem attachInRange_iff (base q policy : Nat) :
    AttachInRange base q policy ↔ ringInRange base q = true ∧ policy ≤ 1 := by
  simp only [AttachInRange, ringInRange, Bool.and_eq_true, decide_eq_true_eq, and_assoc]
  exact Iff.rfl

theorem ownerAttach_of_not_empty (base q policy : Nat) (s : State) (h : s.clock.state ≠ .empty) :
    ownerAttach base q policy s = refuse .refusedState s := if_pos h

theorem ownerAttach_of_not_inRange (base q policy : Nat) (s : State) (he : s.clock.state = .empty)
    (h : ¬AttachInRange base q policy) : ownerAttach base q policy s = refuse .refusedRange s := by
  rw [attachInRange_iff] at h
  rcases Nat.lt_or_ge 1 policy with hp | hp
  · simp [ownerAttach, he, decodePolicy_of_lt hp]
  · have hr : ¬ringInRange base q = true := fun hr => h ⟨hr, hp⟩
    simp [ownerAttach, he, decodePolicy_of_le hp, hr]

theorem ownerAttach_of_inRange (base q policy : Nat) (s : State) (he : s.clock.state = .empty)
    (h : AttachInRange base q policy) :
    ownerAttach base q policy s = taken (attach base q (if policy = 0 then .hold else .halt) s) := by
  obtain ⟨hr, hp⟩ := (attachInRange_iff base q policy).mp h
  simp [ownerAttach, he, decodePolicy_of_le hp, hr]

/-! ### What an attached ring starts with (R25) -/

/-- The intake record with a ring attached, the owned count not yet taken. -/
def ringTaken (base q : Nat) (policy : Policy) (k : Intake) : Intake :=
  { k with attached := true, base := base, q := q, policy := policy, index := 0, state := .running }

/-- The state in which ATTACH RING settles. -/
def ringAttached (base q : Nat) (policy : Policy) (s : State) : State :=
  { s with
    intake := { ringTaken base q policy s.intake with owned := countOwned s.mem (ringTaken base q policy s.intake) }
    clock := { s.clock with backedUp := false } }

theorem attach_eq_settle (base q : Nat) (policy : Policy) (s : State) :
    attach base q policy s = settle (ringAttached base q policy s) := rfl

theorem ringAttached_gather (base q : Nat) (policy : Policy) (p : Port) (bs : List Byte) (s : State) :
    ringAttached base q policy (gather p bs s) = gather p bs (ringAttached base q policy s) := rfl

theorem settle_intake (s : State) : (settle s).intake = s.intake := by
  obtain ⟨_, _, hintake, _⟩ := rest_of_settleAside (settleAside_settle s)
  exact hintake

theorem attach_intake (base q : Nat) (policy : Policy) (s : State) :
    (attach base q policy s).intake = (ringAttached base q policy s).intake := by
  rw [attach_eq_settle, settle_intake]

/-- The count reads the place and the length of the ring alone, so taking the count does not change what it is. -/
theorem ringAttached_owned (base q : Nat) (policy : Policy) (s : State) :
    (ringAttached base q policy s).intake.owned = countOwned s.mem (ringAttached base q policy s).intake := rfl

/-- The frame of ATTACH RING: the ring's fields, the count and the backed-up flag, and what settling touches. -/
theorem sameButSettledAnswer_attach (p : Port) (base q : Nat) (policy : Policy) (bs : List Byte) (r : Response) (s : State) :
    sameButSettledAnswer p (ringAttached base q policy s) (respond p r (attach base q policy (gather p bs s))) := by
  rw [attach_eq_settle, ringAttached_gather]
  exact sameButSettledAnswer_of p bs r _ _ _ (settleAside_settle _) rfl

/-- Settles O19: the roll state is tested first, then the ring and the policy, and a ring in range is taken. -/
theorem attachRingTakesTheRing : Obligations.AttachRingTakesTheRing := by
  intro p base q policy s hs
  simp only [refusedWith, exec_attachRing]
  refine ⟨fun hstate => ?_, fun hempty hout => ?_, fun hempty hin => ?_⟩
  · exact request_refused p _ _ s _ hs (ownerAttach_of_not_empty _ _ _ _ hstate)
  · exact request_refused p _ _ s _ hs (ownerAttach_of_not_inRange _ _ _ _ hempty hout)
  · have howner := ownerAttach_of_inRange _ _ _ (seen p (.attachRing p base q policy) s) hempty hin
    refine ⟨_, request_next p _ _ s hs, ?_⟩
    simp only [howner, taken, respond_intake, attach_intake]
    exact ⟨answer_respond _ _ _, ringAttached_owned _ _ _ _, sameButSettledAnswer_attach p _ _ _ _ _ s⟩

end Sys2Proof.ScanIntake
end

section
/-! PROOFS. Reading the perforations (03_reading_the_perforations.md): the moves of a track filter and of a step-code
debouncer. -/

namespace Sys2Proof.Perforations

open Sys2Proof Sys2Proof.Machine

/-! ### The track filter, by the state before the sample (R48) -/

section Filter

variable (onRun offRun line j cand : Nat)

@[simp] theorem sample_closed_shut : Filter.sample onRun offRun line false .closed = (.closed, .none) := rfl

@[simp] theorem sample_opening_shut : Filter.sample onRun offRun line false (.opening j cand) = (.closed, .speck) := rfl

@[simp] theorem sample_opened_open : Filter.sample onRun offRun line true .opened = (.opened, .none) := rfl

@[simp] theorem sample_closing_open : Filter.sample onRun offRun line true (.closing j cand) = (.opened, .bridged) := rfl

variable {onRun offRun j}

/-- A run of one open sample is believed at once, and the onset is dated on the line itself. -/
theorem sample_closed_onset (h : onRun ≤ 1) :
    Filter.sample onRun offRun line true .closed = (.opened, .onset line) := by
  simp [Filter.sample, h]

theorem sample_closed_startsRun (h : 1 < onRun) :
    Filter.sample onRun offRun line true .closed = (.opening 1 line, .none) := by
  simp [Filter.sample, Nat.not_le.mpr h]

theorem sample_opening_continues (h : j + 1 < onRun) :
    Filter.sample onRun offRun line true (.opening j cand) = (.opening (j + 1) cand, .none) := by
  simp [Filter.sample, h]

/-- The onset of a longer run is dated at the candidate, the first open line of the run. -/
theorem sample_opening_onset (h : onRun ≤ j + 1) :
    Filter.sample onRun offRun line true (.opening j cand) = (.opened, .onset cand) := by
  simp [Filter.sample, Nat.not_lt.mpr h]

/-- A run of one closed sample is believed at once, and the close is dated on the line itself. -/
theorem sample_opened_close (h : offRun ≤ 1) :
    Filter.sample onRun offRun line false .opened = (.closed, .close line) := by
  simp [Filter.sample, h]

theorem sample_opened_startsRun (h : 1 < offRun) :
    Filter.sample onRun offRun line false .opened = (.closing 1 line, .none) := by
  simp [Filter.sample, Nat.not_le.mpr h]

theorem sample_closing_continues (h : j + 1 < offRun) :
    Filter.sample onRun offRun line false (.closing j cand) = (.closing (j + 1) cand, .none) := by
  simp [Filter.sample, h]

/-- The close of a longer run is dated at the candidate, the first closed line of the run. -/
theorem sample_closing_close (h : offRun ≤ j + 1) :
    Filter.sample onRun offRun line false (.closing j cand) = (.closed, .close cand) := by
  simp [Filter.sample, Nat.not_lt.mpr h]

end Filter

/-! ### The debouncer, by the length of the run of one raw code (R53) -/

/-- The run of the raw code `r` with this line: one more where `r` is the candidate, else a run begun here. -/
def runCount (d : Debouncer) (r : Nat) : Nat := if d.candidate = some r then d.count + 1 else 1

section Debouncer

variable {stable r b : Nat} {d : Debouncer}

theorem runCount_of_candidate (h : d.candidate = some r) : runCount d r = d.count + 1 := if_pos h

theorem runCount_of_not_candidate (h : d.candidate ≠ some r) : runCount d r = 1 := if_neg h

@[simp] theorem take_codeInForce (stable b : Nat) (d : Debouncer) : d.take stable b b = (Debouncer.clear, b) := if_pos rfl

/-- A run short of STEP_STABLE is counted, and the code in force stays. -/
theorem take_counts (hne : r ≠ b) (hshort : runCount d r < stable) :
    d.take stable r b = (⟨some r, runCount d r⟩, b) :=
  (if_neg hne).trans (if_neg (Nat.not_le.mpr hshort))

/-- A run that reaches STEP_STABLE brings its code into force and clears the debouncer. -/
theorem take_comesIntoForce (hne : r ≠ b) (hlong : stable ≤ runCount d r) :
    d.take stable r b = (Debouncer.clear, r) :=
  (if_neg hne).trans (if_pos hlong)

end Debouncer

/-! ### The tables together -/

/-- Settles O28: each line of the filter's table is a lemma above; a debouncer's move turns on whether the raw code's run
has reached STEP_STABLE. -/
theorem filtersAndDebouncersMoveByTheTables : Obligations.FiltersAndDebouncersMoveByTheTables := by
  refine ⟨fun onRun offRun line j cand => ?filter, fun stable r b d _ => ?debouncer⟩
  case filter =>
    exact ⟨sample_closed_shut .., fun h => sample_closed_onset _ h.le, sample_closed_startsRun _,
      sample_opening_continues _ _, fun h => sample_opening_onset _ _ h.ge, sample_opening_shut ..,
      sample_opened_open .., fun h => sample_opened_close _ h.le, sample_opened_startsRun _,
      sample_closing_continues _ _, fun h => sample_closing_close _ _ h.ge, sample_closing_open ..⟩
  case debouncer =>
    refine ⟨?inForce, fun hne hc hshort => ?again, fun hne hc hlong => ?reached, fun hne hc hshort => ?fresh,
      fun hne hc hone => ?atOnce⟩
    case inForce => rintro rfl; exact take_codeInForce ..
    case again =>
      have hrun := runCount_of_candidate hc
      rw [take_counts hne (hrun ▸ hshort), hrun]
    case reached => exact take_comesIntoForce hne (runCount_of_candidate hc ▸ hlong)
    case fresh =>
      have hrun := runCount_of_not_candidate hc
      rw [take_counts hne (hrun ▸ hshort), hrun]
    case atOnce => exact take_comesIntoForce hne (runCount_of_not_candidate hc ▸ hone.le)

end Sys2Proof.Perforations
end

section
/-! PROOFS. Expression arithmetic (04_expression_arithmetic.md): the gain and the balance that TRIM puts in force. -/

namespace Sys2Proof.ExpressionArithmetic

open Sys2Proof Sys2Proof.Machine Sys2Proof.Laws

/-! ### TRIM (R72) -/

theorem exec_trim (p : Port) (gain balance : BitVec 16) (s : State) :
    exec (.trim p gain balance) s = request p (.trim p gain balance) (ownerTrim gain.toNat balance.toInt) s := rfl

theorem clampNat_zero (hi x : Nat) : clampNat 0 hi x = min x hi := by
  rw [clampNat, Nat.zero_max, Nat.min_comm]

section Owner

variable (gain : Nat) (balance : Int) (s : State)

theorem setTrim_gain : (setTrim gain balance s).expr.gain = min gain 255 := clampNat_zero 255 gain

theorem setTrim_balance : (setTrim gain balance s).expr.balance = max (-64) (min 64 balance) := rfl

/-- TRIM writes the gain and the balance, and reads nothing of the transfer that brings it. -/
theorem setTrim_gather (p : Port) (bs : List Byte) :
    setTrim gain balance (gather p bs s)
      = gather p bs { s with
          expr := { s.expr with
            gain := (setTrim gain balance s).expr.gain, balance := (setTrim gain balance s).expr.balance } } := rfl

/-- The status of TRIM turns on whether both figures in force are the ones commanded. -/
theorem clampStatus_of_figures (g : Nat) (b : Int) :
    clampStatus (g != gain || b != balance) = if g = gain ∧ b = balance then .done else .clamped := by
  by_cases hg : g = gain
  · by_cases hb : b = balance
    · simp [clampStatus, hg, hb]
    · simp [clampStatus, hb]
  · simp [clampStatus, hg]

/-- What the owner of TRIM answers: both figures in force, and whether they are the ones commanded. -/
theorem ownerTrim_eq :
    ownerTrim gain balance s
      = (setTrim gain balance s,
          ⟨if (setTrim gain balance s).expr.gain = gain ∧ (setTrim gain balance s).expr.balance = balance
            then .done else .clamped,
            [BitVec.ofNat 8 (setTrim gain balance s).expr.gain,
              BitVec.ofInt 8 (setTrim gain balance s).expr.balance]⟩) := by
  rw [← clampStatus_of_figures]
  rfl

end Owner

/-- Settles O33: outside a settings load the owner of TRIM decides, and it tests no roll state. -/
theorem trimClampsGainAndBalance : Obligations.TrimClampsGainAndBalance := by
  intro p gain balance s hs
  refine ⟨_, (exec_trim p gain balance s).trans (request_next p _ _ s hs), ?_⟩
  rw [ownerTrim_eq, setTrim_gather]
  exact ⟨setTrim_gain .., setTrim_balance .., answer_respond .., by simp [sameButAnswer]⟩

end Sys2Proof.ExpressionArithmetic
end

section
/-! PROOFS. The strike Timeline (05_the_strike_timeline.md): the figure that TRANSPOSE puts in force, and the key a strike
is given. -/

namespace Sys2Proof.StrikeTimeline

open Sys2Proof Sys2Proof.Machine Sys2Proof.Laws

/-! ### TRANSPOSE (R86) -/

section Transpose

variable (figure : Int) (s : State)

theorem exec_transpose (p : Port) (semitones : Byte) :
    exec (.transpose p semitones) s = request p (.transpose p semitones) (ownerTranspose semitones.toInt) s := rfl

theorem setTranspose_transposition :
    (setTranspose figure s).sched.transposition = max (-6) (min 6 figure) := rfl

/-- TRANSPOSE writes the transposition alone, and reads nothing of the transfer that brings it. -/
theorem setTranspose_gather (p : Port) (bs : List Byte) :
    setTranspose figure (gather p bs s)
      = gather p bs { s with
          sched := { s.sched with transposition := (setTranspose figure s).sched.transposition } } := rfl

/-- The status of a request with one figure turns on whether the figure in force is the one commanded. -/
theorem clampStatus_of_figure (inForce : Int) :
    clampStatus (inForce != figure) = if inForce = figure then .done else .clamped := by
  by_cases h : inForce = figure
  · simp [clampStatus, h]
  · simp [clampStatus, h]

/-- What the owner of TRANSPOSE answers: the figure in force, and whether it is the one commanded. -/
theorem ownerTranspose_eq :
    ownerTranspose figure s
      = (setTranspose figure s,
          ⟨if (setTranspose figure s).sched.transposition = figure then .done else .clamped,
            [BitVec.ofInt 8 (setTranspose figure s).sched.transposition]⟩) := by
  rw [← clampStatus_of_figure]
  rfl

end Transpose

/-! ### The key of a strike (R87) -/

theorem chooseKey_silent {s : State} {n : Nat} (h : (track s n).state = .silent) :
    chooseKey s n = foldKey n s.sched.transposition := if_pos h

theorem chooseKey_recorded {s : State} {n : Nat} (h : (track s n).state ≠ .silent) :
    chooseKey s n = (track s n).key := if_neg h

section Folding

variable {n : Nat} {t : Int}

theorem foldKey_within (low : 0 ≤ (n : Int) + t) (high : (n : Int) + t ≤ 87) : (foldKey n t : Int) = n + t := by
  rw [foldKey, if_neg (by omega), if_neg (by omega), Int.toNat_of_nonneg low]

/-- Past the top key the fold goes an octave down, which any sum of 12 or more can bear. -/
theorem foldKey_above (high : 87 < (n : Int) + t) : (foldKey n t : Int) = n + t - 12 := by
  rw [foldKey, if_pos high, Int.toNat_of_nonneg (by omega)]

/-- Below the bottom key the fold goes an octave up, which lands on the keyboard when the sum misses it by 12 or less. -/
theorem foldKey_below (low : (n : Int) + t < 0) (octave : -12 ≤ (n : Int) + t) :
    (foldKey n t : Int) = n + t + 12 := by
  rw [foldKey, if_neg (by omega), if_pos low, Int.toNat_of_nonneg (by omega)]

/-- One octave brings every transposed track back to the keyboard, 0..87. -/
theorem foldKey_lt (hn : n < 88) (hlow : -6 ≤ t) (hhigh : t ≤ 6) : foldKey n t < 88 := by
  rcases lt_or_ge ((n : Int) + t) 0 with low | low
  · have key := foldKey_below low (by omega)
    omega
  · rcases lt_or_ge 87 ((n : Int) + t) with high | high
    · have key := foldKey_above high
      omega
    · have key := foldKey_within low high
      omega

end Folding

/-- Settles O34: TRANSPOSE is its owner's, which tests no roll state; a key is chosen by the track's state and folded by
where n + t falls. -/
theorem transposeClampsTheFigure : Obligations.TransposeClampsTheFigure := by
  refine ⟨fun p semitones s hs => ?transpose, fun s n => ⟨chooseKey_silent, chooseKey_recorded⟩,
    fun n t hn hlow hhigh => ?folding⟩
  case transpose =>
    refine ⟨_, (exec_transpose s p semitones).trans (request_next p _ _ s hs), ?_⟩
    rw [ownerTranspose_eq, setTranspose_gather]
    exact ⟨setTranspose_transposition .., answer_respond .., by simp [sameButAnswer]⟩
  case folding =>
    exact ⟨foldKey_lt hn hlow hhigh, foldKey_within, foldKey_above, fun low => foldKey_below low (by omega)⟩

end Sys2Proof.StrikeTimeline
end

section
/-! PROOFS. The action drive (06_action_drive.md): what RESTART CHAIN does to a chain. -/

namespace Sys2Proof.ActionDrive

open Sys2Proof Sys2Proof.Machine Sys2Proof.Laws

/-! ### One record of a table changed -/

section Table

variable {α : Type} {n i : Nat} (v : Vector α n) (f : α → α) (d : α)

theorem toList_vmodify : (vmodify v i f).toList = v.toList.modify i f := rfl

theorem vget_vmodify_self (h : i < n) : vget (vmodify v i f) i d = f (vget v i d) := by
  have inTable : i < v.toList.length := by rwa [Vector.length_toList]
  simp only [vget, toList_vmodify, List.getD_eq_getElem?_getD, List.getElem?_modify_eq, List.getElem?_eq_getElem inTable]
  rfl

theorem vget_vmodify_of_ne {j : Nat} (h : j ≠ i) : vget (vmodify v i f) j d = vget v j d := by
  simp only [vget, toList_vmodify, List.getD_eq_getElem?_getD, List.getElem?_modify_ne f _ h.symm]

end Table

/-! ### One chain changed -/

section SetChain

variable {c : Nat} (f : Chain → Chain) (s : State)

theorem chainRec_setChain_self (h : c < 4) : chainRec (setChain c f s) c = f (chainRec s c) :=
  vget_vmodify_self s.drive.chains f Chain.reset h

theorem chainRec_setChain_of_ne {d : Nat} (h : d ≠ c) : chainRec (setChain c f s) d = chainRec s d :=
  vget_vmodify_of_ne s.drive.chains f Chain.reset h

/-- A change of one chain reads and writes nothing of the transfer that brings it. -/
theorem setChain_gather (p : Port) (bs : List Byte) : setChain c f (gather p bs s) = gather p bs (setChain c f s) := rfl

end SetChain

/-! ### RESTART CHAIN (R125) -/

theorem exec_restartChain (p : Port) (chain : Byte) (s : State) :
    exec (.restartChain p chain) s = request p (.restartChain p chain) (ownerRestart chain.toNat) s := rfl

/-- R125: what a restart leaves of the chain's record. -/
def restarted (r : Chain) : Chain := { r with state := .probing, goodRun := 0 }

section Owner

variable {c : Nat} {s : State}

theorem ownerRestart_of_outside (h : 4 ≤ c) : ownerRestart c s = refuse .refusedRange s := if_pos h

theorem ownerRestart_of_online (hc : c < 4) (h : (chainRec s c).state = .online) :
    ownerRestart c s = refuse .refusedState s := by
  rw [ownerRestart, if_neg (Nat.not_le.2 hc), h]

/-- PROBING and FAULTED are restarted alike. -/
theorem ownerRestart_of_not_online (hc : c < 4) (h : (chainRec s c).state ≠ .online) :
    ownerRestart c s = taken (setChain c restarted s) := by
  rw [ownerRestart, if_neg (Nat.not_le.2 hc)]
  cases state : (chainRec s c).state with
  | probing => rfl
  | faulted => rfl
  | online => exact absurd state h

end Owner

/-- Settles O50: the chain's number and state decide which answer the owner gives, and a restart writes one record of the
chain table. -/
theorem restartChainActsByTheState : Obligations.RestartChainActsByTheState := by
  intro p chain s hs
  refine ⟨fun outside => ?range, fun inside online => ?state, fun inside offline => ?restart⟩
  case range => exact request_refused p _ _ s _ hs (ownerRestart_of_outside outside)
  case state => exact request_refused p _ _ s _ hs (ownerRestart_of_online inside online)
  case restart =>
    refine ⟨_, (exec_restartChain p chain s).trans (request_next p _ _ s hs), ?_⟩
    have owner := ownerRestart_of_not_online (s := seen p (.restartChain p chain) s) inside offline
    rw [owner, setChain_gather]
    exact ⟨answer_respond .., chainRec_setChain_self restarted s inside,
      fun d other => chainRec_setChain_of_ne restarted s other, (transferAside_respond ..).trans (transferAside_gather ..)⟩

end Sys2Proof.ActionDrive
end

section
/-! PROOFS. Ports, windows and attention (10_ports_windows_and_attention.md): what READ and READ ON answer, which WRITEs
are refused and what no WRITE reaches, and the attention sets, mask and line of a port. -/

namespace Sys2Proof.PortsAndWindows

open Sys2Proof Sys2Proof.Machine Sys2Proof.Laws

/-! ### A request that changes its own port's record -/

section OnPort

variable (p : Port) (f : PortRec → PortRec) (s : State)

/-- `s` with the record of port `p` changed by `f`. -/
def onPort : State := { s with ports := s.ports.modify p f }

/-- A change of a port record that neither reads nor writes the gathered bytes and the bytes clocked out. -/
def SparesTransfer (f : PortRec → PortRec) : Prop :=
  ∀ (r : PortRec) (a o : List Byte), f { r with assembler := a, sdo := o } = { f r with assembler := a, sdo := o }

theorem onPort_gather (bs : List Byte) (hf : SparesTransfer f) :
    onPort p f (gather p bs s) = gather p bs (onPort p f s) := by
  cases p with
  | s => exact congrArg (fun r => { s with ports := { s.ports with s := r } }) (hf ..)
  | c => exact congrArg (fun r => { s with ports := { s.ports with c := r } }) (hf ..)

theorem sameButAnswer_respond_gather (r : Response) (bs : List Byte) :
    sameButAnswer p s (respond p r (gather p bs s)) :=
  (transferAside_respond ..).trans (transferAside_gather ..)

/-- The frame of a request whose owner changes one port record alone. -/
theorem request_onPort (i : Instr) (owner : State → State × Response) (r : Response) (hs : s.takesRequests)
    (hf : SparesTransfer f) (howner : owner (seen p i s) = (onPort p f (seen p i s), r)) :
    ∃ t, request p i owner s = .next t ∧ t.answer p = some r ∧ sameButAnswer p (onPort p f s) t := by
  refine ⟨_, request_next p i owner s hs, ?_⟩
  rw [howner, onPort_gather p f s _ hf]
  exact ⟨answer_respond .., sameButAnswer_respond_gather ..⟩

end OnPort

/-- An answer leaves the port's own pending set. -/
theorem pending_of_sameButAnswer {p : Port} {s t : State} (h : sameButAnswer p s t) :
    (t.ports.get p).pending = (s.ports.get p).pending := by
  have pending := congrArg (fun x : State => (x.ports.get p).pending) h
  simpa only [State.transferAside, get_modify_self, PortRec.transferAside] using pending

/-! ### READ and READ ON (R171) -/

theorem exec_read (p : Port) (addr : BitVec 16) (count : Byte) (s : State) :
    exec (.read p addr count) s = request p (.read p addr count) (ownerRead p addr.toNat count.toNat) s := rfl

theorem exec_readOn (p : Port) (count : Byte) (s : State) :
    exec (.readOn p count) s
      = request p (.readOn p count) (fun t => ownerRead p (t.ports.get p).window count.toNat t) s := rfl

/-- A block read lists the bytes at its addresses in ascending order. -/
theorem readBytes_eq_map (s : State) (a n : Nat) :
    readBytes s a n = (List.range n).map fun k => readByte s (a + k) := by
  apply List.ext_getElem (by simp [readBytes, mem_readBlock_length])
  intro k hk _
  have hkn : k < n := by simpa [readBytes, mem_readBlock_length] using hk
  have byte := mem_readBlock_getD recordFill s.mem n a k hkn
  rw [← readBytes, List.getD_eq_getElem _ _ hk] at byte
  rw [List.getElem_map, List.getElem_range]
  exact byte

/-- The figures with which R171 answers a read. -/
def ReadInRange (a count : Nat) : Prop := 1 ≤ count ∧ count ≤ 64 ∧ a + count ≤ 0x2000

theorem ownerRead_of_inRange {a count : Nat} (p : Port) (s : State) (h : ReadInRange a count) :
    ownerRead p a count s
      = (onPort p (fun r => { r with window := a + count }) s,
          ⟨.done, (List.range count).map fun k => readByte s (a + k)⟩) := by
  rw [← readBytes_eq_map]
  exact if_pos h

theorem ownerRead_of_not_inRange {a count : Nat} (p : Port) (s : State) (h : ¬ReadInRange a count) :
    ownerRead p a count s = refuse .refusedRange s := if_neg h

/-- Whatever names the address, a request that its port answers as a read from `a` does what R171 says. -/
theorem readsFrom_of_owner {p : Port} {c : Instr} {a count : Nat} {owner : State → State × Response} {s : State}
    (hs : s.takesRequests) (hexec : exec c s = request p c owner s)
    (howner : owner (seen p c s) = ownerRead p a count (seen p c s)) : readsFrom p c a count s := by
  unfold readsFrom
  rw [hexec]
  refine ⟨fun inRange => ?answered, fun outside => ?refused⟩
  case answered =>
    exact request_onPort p _ s c owner _ hs (fun _ _ _ => rfl) (howner.trans (ownerRead_of_inRange p _ inRange))
  case refused =>
    exact request_refused p c owner s _ hs (howner.trans (ownerRead_of_not_inRange p _ outside))

/-- Gathering a request leaves the window pointer where it stood. -/
theorem window_seen (p : Port) (i : Instr) (s : State) : ((seen p i s).ports.get p).window = (s.ports.get p).window := by
  simp only [gather_ports, get_modify_self]

/-- Settles O11: READ and READ ON differ in where the address comes from alone. -/
theorem readsAnswerTheBytesFromTheAddress : Obligations.ReadsAnswerTheBytesFromTheAddress := by
  intro p addr count s hs
  exact ⟨readsFrom_of_owner hs (exec_read ..) rfl,
    readsFrom_of_owner hs (exec_readOn ..) (by rw [window_seen])⟩

/-! ### The tests of a WRITE (R172, R173, R165) -/

section Write

variable {p : Port} {data : List Byte} {s : State}

theorem exec_write_of_fits (p : Port) (addr : BitVec 16) (s : State) (h : data.length ≤ 68) :
    exec (.write p addr data) s = request p (.write p addr data) (ownerWrite p addr.toNat data) s :=
  if_neg (Nat.not_lt.2 h)

/-- Past 68 data bytes the frame itself fails (R168, test 1). -/
theorem exec_write_of_long (p : Port) (addr : BitVec 16) (s : State) (h : 68 < data.length) :
    exec (.write p addr data) s = .next (faulted p (encodeRequest (.write p addr data)) .frameFault s) := if_pos h

/-- A WRITE crosses the fence exactly where its bytes do not lie inside its port's region. -/
theorem crossesFence_iff (p : Port) (a n : Nat) : crossesFence p a n = true ↔ ¬inOwnRegion p a n := by
  cases p with
  | s => exact decide_eq_true_iff.trans Nat.not_le.symm
  | c => exact decide_eq_true_iff.trans Nat.not_le.symm

theorem storeBusy_iff (l : LinkState) : l.storeBusy = true ↔ l = .storing ∨ l = .verifying := by
  cases l <;> decide

variable {a : Nat}

theorem ownerWrite_of_pastEnd (h : 0x2000 < a + data.length) : ownerWrite p a data s = refuse .refusedRange s := by
  have pastEnd : recordSize < a + data.length := h
  rw [ownerWrite, if_pos pastEnd, ite_self]

/-- A WRITE that passes the range test is decided by the fence and the store. -/
theorem ownerWrite_of_inRange (least : 1 ≤ data.length) (most : data.length ≤ 64) (fits : a + data.length ≤ 0x2000) :
    ownerWrite p a data s
      = if crossesFence p a data.length then refuse .refusedFence s
        else if p = .c ∧ s.tables.link.storeBusy ∧ touchesTables a data.length then refuse .refusedBusy s
        else taken (settle (afterWrite p s.mem (writeBytes a data s))) := by
  have inMemory : ¬recordSize < a + data.length := Nat.not_lt.2 fits
  rw [ownerWrite, if_neg (by omega), if_neg inMemory]

theorem ownerWrite_of_fence (least : 1 ≤ data.length) (most : data.length ≤ 64) (fits : a + data.length ≤ 0x2000)
    (outside : ¬inOwnRegion p a data.length) : ownerWrite p a data s = refuse .refusedFence s := by
  rw [ownerWrite_of_inRange least most fits, if_pos ((crossesFence_iff ..).2 outside)]

/-- In the console region a WRITE that begins below 0x1580 touches the table area. -/
theorem touchesTables_of_console {n : Nat} (least : 1 ≤ n) (console : 0x0C00 ≤ a) (below : a < 0x1580) :
    touchesTables a n = true := by
  have start : a < tableEnd := below
  have stop : tableBase < a + n := Nat.lt_of_le_of_lt console (by omega)
  rw [touchesTables, decide_eq_true start, decide_eq_true stop]
  rfl

theorem ownerWrite_of_busy (least : 1 ≤ data.length) (most : data.length ≤ 64) (fits : a + data.length ≤ 0x2000)
    (console : 0x0C00 ≤ a) (busy : s.tables.link = .storing ∨ s.tables.link = .verifying) (below : a < 0x1580) :
    ownerWrite .c a data s = refuse .refusedBusy s := by
  have inside : ¬crossesFence .c a data.length = true := fun crosses => (crossesFence_iff ..).1 crosses console
  rw [ownerWrite_of_inRange least most fits, if_neg inside,
    if_pos ⟨rfl, (storeBusy_iff _).2 busy, touchesTables_of_console least console below⟩]

end Write

/-! ### What no WRITE reaches (R173) -/

theorem ringCompare_mem (before : Mem) (s : State) : (ringCompare before s).mem = s.mem := by
  unfold ringCompare
  split
  case isTrue =>
    refine foldl_keeps State.mem _ (fun t i => ?_) _ s
    dsimp only
    split
    · rfl
    · split <;> rfl
  case isFalse => rfl

theorem afterWrite_mem (p : Port) (before : Mem) (s : State) : (afterWrite p before s).mem = s.mem := by
  cases p with
  | s => exact ringCompare_mem before s
  | c => rfl

/-- What a WRITE can do to record memory: nothing, or its bytes on its own side of the fence. -/
theorem ownerWrite_mem (p : Port) (a : Nat) (data : List Byte) (s : State) :
    (ownerWrite p a data s).1.mem = s.mem
      ∨ inOwnRegion p a data.length ∧ (ownerWrite p a data s).1.mem = (writeBytes a data s).mem := by
  unfold ownerWrite
  split
  case isTrue => exact .inl rfl
  split
  case isTrue => exact .inl rfl
  split
  case isTrue => exact .inl rfl
  case isFalse inside =>
    split
    case isTrue => exact .inl rfl
    case isFalse =>
      rw [crossesFence_iff, not_not] at inside
      exact .inr ⟨inside, (settle_mem _).trans (afterWrite_mem ..)⟩

/-- A request changes record memory through its owner alone. -/
theorem request_mem {p : Port} {i : Instr} {owner : State → State × Response} {s t : State}
    (h : request p i owner s = .next t) : t.mem = s.mem ∨ t.mem = (owner (seen p i s)).1.mem := by
  by_cases loading : s.tables.link = .loading
  · rw [request_loading p i owner s loading] at h
    cases h
    exact .inl rfl
  · rw [request_next p i owner s loading] at h
    cases h
    exact .inr rfl

theorem exec_write_mem {p : Port} {addr : BitVec 16} {data : List Byte} {s t : State}
    (h : exec (.write p addr data) s = .next t) :
    t.mem = s.mem ∨ inOwnRegion p addr.toNat data.length ∧ t.mem = (writeBytes addr.toNat data s).mem := by
  rcases Nat.lt_or_ge 68 data.length with long | fits
  · rw [exec_write_of_long p addr s long] at h
    cases h
    exact .inl rfl
  · rw [exec_write_of_fits p addr s fits] at h
    rcases request_mem h with kept | owned
    · exact .inl kept
    · rw [owned]
      exact ownerWrite_mem p addr.toNat data (seen p _ s)

/-- The addresses of the region that port `p` may not write (R173). -/
def acrossFence (p : Port) (a : Nat) : Prop :=
  match p with
  | .s => 0x0C00 ≤ a
  | .c => a < 0x0C00

theorem outsideBlock_of_acrossFence {p : Port} {a n x : Nat} (inside : inOwnRegion p a n) (across : acrossFence p x) :
    outsideBlock a n x := by
  cases p with
  | s => exact .inr (Nat.le_trans inside across)
  | c => exact .inl (Nat.lt_of_lt_of_le across inside)

theorem memoryKept_of_mem_eq {q : Nat → Prop} {s t : State} (h : t.mem = s.mem) : memoryKept q s t :=
  fun x _ => congrArg (Mem.read recordFill · x) h

/-- No WRITE at a port changes a byte across the fence, whatever answer it gets. -/
theorem exec_write_keeps_acrossFence {p : Port} {addr : BitVec 16} {data : List Byte} {s t : State}
    (h : exec (.write p addr data) s = .next t) : memoryKept (acrossFence p) s t := by
  rcases exec_write_mem h with kept | ⟨inside, written⟩
  · exact memoryKept_of_mem_eq kept
  · intro x across
    calc readByte t x = readByte (writeBytes addr.toNat data s) x := congrArg (Mem.read recordFill · x) written
      _ = readByte s x := readByte_writeBytes_outside s _ x data (outsideBlock_of_acrossFence inside across)

/-- Settles O13: each refusal is one of the owner's tests, and what a WRITE stores lies on its own side of the fence. -/
theorem refusedWritesChangeNothing : Obligations.RefusedWritesChangeNothing := by
  refine ⟨fun p addr data s hs least most => ?refusals, fun addr data s t h => ?scan, fun addr data s t h => ?console⟩
  case refusals =>
    simp only [refusedWith, exec_write_of_fits p addr s (show data.length ≤ 68 by omega)]
    refine ⟨fun pastEnd => ?range, fun fits outside => ?fence, fun fits inside console busy below => ?busy⟩
    case range => exact request_refused p _ _ s _ hs (ownerWrite_of_pastEnd pastEnd)
    case fence => exact request_refused p _ _ s _ hs (ownerWrite_of_fence least most fits outside)
    case busy =>
      subst console
      exact request_refused .c _ _ s _ hs (ownerWrite_of_busy least most fits inside busy below)
  case scan => exact exec_write_keeps_acrossFence h
  case console => exact exec_write_keeps_acrossFence h

/-! ### The pending sets (R175) -/

/-- The two spellings of a 16-bit figure in a payload, low byte first. -/
theorem bytes16_eq_natBytes (v : BitVec 16) : bytes16 v = natBytes 2 v.toNat := by
  have low : v.extractLsb' 0 8 = BitVec.ofNat 8 v.toNat := by
    apply BitVec.eq_of_toNat_eq
    simp
  have high : v.extractLsb' 8 8 = BitVec.ofNat 8 (v.toNat / 256) := by
    apply BitVec.eq_of_toNat_eq
    simp [Nat.shiftRight_eq_div_pow]
  rw [bytes16, low, high]
  rfl

theorem raise_pending (a : Attention) (s : State) (q : Port) :
    ((raise a s).ports.get q).pending = (s.ports.get q).pending ||| a.set := by
  rw [raise, get_map]

theorem exec_clearAttention (p : Port) (sources : BitVec 16) (s : State) :
    exec (.clearAttention p sources) s = request p (.clearAttention p sources) (ownerClear p sources) s := rfl

/-- R175: the named sources leave the pending set. -/
def dropSources (sources : BitVec 16) (r : PortRec) : PortRec := { r with pending := r.pending &&& ~~~sources }

theorem ownerClear_eq (p : Port) (sources : BitVec 16) (s : State) :
    ownerClear p sources s
      = (onPort p (dropSources sources) s, ⟨.done, natBytes 2 ((s.ports.get p).pending &&& ~~~sources).toNat⟩) := by
  rw [← bytes16_eq_natBytes]
  cases p <;> rfl

/-- Gathering a request leaves the pending set as it stood. -/
theorem pending_seen (p : Port) (i : Instr) (s : State) : ((seen p i s).ports.get p).pending = (s.ports.get p).pending := by
  simp only [gather_ports, get_modify_self]

/-- Settles O15: a source is raised in both sets, and CLEAR ATTENTION changes its own port's record alone. -/
theorem clearAttentionRemovesTheSources : Obligations.ClearAttentionRemovesTheSources := by
  refine ⟨raise_pending, fun p sources s hs => ?clear⟩
  have howner := ownerClear_eq p sources (seen p (.clearAttention p sources) s)
  rw [pending_seen] at howner
  obtain ⟨t, hnext, hanswer, hframe⟩ := request_onPort p _ s _ _ _ hs (fun _ _ _ => rfl) howner
  have hpending := pending_of_sameButAnswer hframe
  rw [onPort, get_modify_self] at hpending
  exact ⟨t, hnext, hpending, hanswer, hframe⟩

/-! ### The mask, the line drive and the ATTN pin (R176) -/

theorem exec_setAttentionMask (p : Port) (sources : BitVec 16) (drive : Byte) (s : State) :
    exec (.setAttentionMask p sources drive) s
      = request p (.setAttentionMask p sources drive) (ownerMask p sources drive.toNat) s := rfl

theorem decodeLineDrive_of_le {code : Nat} (h : code ≤ 1) :
    decodeLineDrive code = some (if code = 0 then .openDrain else .pushPull) := by
  match code with
  | 0 => rfl
  | 1 => rfl

theorem decodeLineDrive_of_lt {code : Nat} (h : 1 < code) : decodeLineDrive code = none := by
  match code with
  | _ + 2 => rfl

theorem ownerMask_of_named {drive : Nat} (p : Port) (sources : BitVec 16) (s : State) (h : drive ≤ 1) :
    ownerMask p sources drive s
      = (onPort p
            (fun r => { r with
              mask := sources &&& 0x07FF#16, drive := if drive = 0 then .openDrain else .pushPull }) s,
          ⟨.done, natBytes 2 (sources &&& 0x07FF#16).toNat⟩) := by
  rw [ownerMask, decodeLineDrive_of_le h, ← bytes16_eq_natBytes]
  rfl

theorem ownerMask_of_not_named {drive : Nat} (p : Port) (sources : BitVec 16) (s : State) (h : 1 < drive) :
    ownerMask p sources drive s = refuse .refusedRange s := by
  rw [ownerMask, decodeLineDrive_of_lt h]

section Pin

variable {r : PortRec}

theorem attn_iff (r : PortRec) : r.attn = true ↔ r.pending &&& r.mask ≠ 0#16 := bne_iff_ne

theorem attnPin_asserted (h : r.pending &&& r.mask ≠ 0#16) : r.attnPin = .low := if_pos ((attn_iff r).2 h)

theorem not_attn (apart : r.pending &&& r.mask = 0#16) : ¬r.attn = true := fun asserted => (attn_iff r).1 asserted apart

theorem attnPin_undriven (apart : r.pending &&& r.mask = 0#16) (drive : r.drive = .openDrain) : r.attnPin = .undriven := by
  rw [PortRec.attnPin, if_neg (not_attn apart), drive]

theorem attnPin_high (apart : r.pending &&& r.mask = 0#16) (drive : r.drive = .pushPull) : r.attnPin = .high := by
  rw [PortRec.attnPin, if_neg (not_attn apart), drive]

end Pin

/-- Settles O16: the drive code decides whether mask and drive are taken, and the pin follows the meeting of pending set
and mask, then the drive. -/
theorem attentionMaskDrivesTheLine : Obligations.AttentionMaskDrivesTheLine := by
  refine ⟨fun p sources drive s hs => ⟨fun named => ?taken, fun unnamed => ?refused⟩,
    fun r => ⟨attnPin_asserted, attnPin_undriven, attnPin_high⟩⟩
  case taken =>
    rw [exec_setAttentionMask]
    exact request_onPort p _ s _ _ _ hs (fun _ _ _ => rfl) (ownerMask_of_named p sources _ named)
  case refused => exact request_refused p _ _ s _ hs (ownerMask_of_not_named p sources _ unnamed)

end Sys2Proof.PortsAndWindows
end

section
/-! PROOFS. Service functions (11_service_functions.md): which FRAME CRC starts a check, and what the check starts with. -/

namespace Sys2Proof.ServiceFunctions

open Sys2Proof Sys2Proof.Machine Sys2Proof.Laws

/-! ### FRAME CRC (R180) -/

theorem exec_frameCrc (p : Port) (chain count : Byte) (s : State) :
    exec (.frameCrc p chain count) s
      = request p (.frameCrc p chain count) (ownerFrameCrc chain.toNat count.toNat) s := rfl

section Owner

variable {c n : Nat} (s : State)

theorem ownerFrameCrc_of_outside (h : 4 ≤ c ∨ n = 0) : ownerFrameCrc c n s = refuse .refusedRange s := by
  have outside : ¬(c < 4 ∧ 1 ≤ n) := by omega
  exact if_neg outside

/-- A request in range is taken whatever check runs and whatever the named chain's state is. -/
theorem ownerFrameCrc_of_inside (hc : c < 4) (hn : 1 ≤ n) : ownerFrameCrc c n s = taken (startCheck c n s) :=
  if_pos ⟨hc, hn⟩

end Owner

/-- Starting a check reads and writes nothing of the transfer that brings it. -/
theorem startCheck_gather (c n : Nat) (p : Port) (bs : List Byte) (s : State) :
    startCheck c n (gather p bs s) = gather p bs (startCheck c n s) := rfl

/-- Settles O51: the owner's one range test decides, and a check that starts writes the check's record alone. -/
theorem frameCrcStartsTheCheck : Obligations.FrameCrcStartsTheCheck := by
  intro p chain count s hs
  refine ⟨fun outside => ?range, fun chainInside someFrames => ?started⟩
  case range => exact request_refused p _ _ s _ hs (ownerFrameCrc_of_outside _ outside)
  case started =>
    refine ⟨_, (exec_frameCrc p chain count s).trans (request_next p _ _ s hs), ?_⟩
    rw [ownerFrameCrc_of_inside _ chainInside someFrames, taken, startCheck_gather]
    exact ⟨answer_respond .., PortsAndWindows.sameButAnswer_respond_gather p (startCheck chain.toNat count.toNat s) _ _⟩

end Sys2Proof.ServiceFunctions
end

section
/-! PROOFS. Record formats (12_record_formats_and_electrical_summary.md): the twelve bytes of READ STATUS. -/

namespace Sys2Proof.RecordFormats

open Sys2Proof Sys2Proof.Machine Sys2Proof.Laws

/-! ### READ STATUS (R174, R187) -/

/-- READ STATUS does not pass through `request`, so no settings load turns it away (R168, test 3). -/
theorem exec_readStatus (p : Port) (s : State) :
    exec (.readStatus p) s
      = .next (respond p ⟨.done, statusPayload p s⟩ (gather p (encodeRequest (.readStatus p)) s)) := rfl

/-- Byte 11 of R187 as its bits: intake HALTED, store busy, last store result, LOADING. -/
def statusFlags (intake : IntakeState) (link : LinkState) (last : StoreResult) : Nat :=
  (if intake = .halted then 1 else 0) + (if link = .storing ∨ link = .verifying then 2 else 0) + 4 * last.code
    + if link = .loading then 16 else 0

/-- The payload field by field: the flag byte is the only one that depends on which state the intake and the settings
link are in. -/
theorem statusPayload_eq (p : Port) (s : State) :
    statusPayload p s
      = natBytes 1 s.clock.state.code ++ natBytes 1 s.clock.directive.kind.code ++ natBytes 2 s.clock.directive.rate
        ++ natBytes 4 s.clock.directive.seekStart ++ [s.clock.directive.seq]
        ++ natBytes 2 (s.ports.get p).pending.toNat
        ++ natBytes 1 (statusFlags s.intake.state s.tables.link s.tables.lastStore) := by
  unfold statusPayload
  cases s.intake.state with
  | running => cases s.tables.link with | idle | loading | storing | verifying => simp [statusFlags]
  | halted => cases s.tables.link with | idle | loading | storing | verifying => simp [statusFlags]

/-- Settles O14: the payload is read from the state before the transfer, and answering it writes the port's transfer
fields alone. -/
theorem readStatusAnswersTheTwelveBytes : Obligations.ReadStatusAnswersTheTwelveBytes := by
  intro p s
  refine ⟨_, exec_readStatus p s, PortsAndWindows.sameButAnswer_respond_gather p s _ _, ?payload⟩
  case payload => rw [answer_respond, statusPayload_eq, statusFlags]

end Sys2Proof.RecordFormats
end
